-- ==== Sys2Proof/Word.lean ====
section
/-! DEFINITION. The words the block handles (bytes, 32-bit numbers) and the records that travel on its
command port: CMD and RESP (30_encoding.md R57, R58). All are plain data. -/

namespace Sys2Proof

/-- A byte, a number below 256 (R15). -/
abbrev Byte := BitVec 8

/-- A 32-bit number: `INFO`, RESP `info`, CMD `arg`, the status word (R27, R28, R57, R58). -/
abbrev Word32 := BitVec 32

/-- The two lanes of a block (R18): SEND is number 0, RECV number 1. -/
inductive Lane where
  | send
  | recv
deriving DecidableEq, Repr

/-- The CMD record (R57): separate port signals, with no bit positions in a common word (R53). -/
structure Cmd where
  /-- The command's op code. -/
  op : BitVec 8
  /-- `0` SEND, `1` RECV. -/
  lane : BitVec 1
  /-- The small operand, whose meaning depends on `op` (R60). -/
  arg : Word32
  /-- The first byte sequence. -/
  a : List Byte
  /-- The second byte sequence. -/
  b : List Byte
deriving DecidableEq, Repr

/-- The RESP record (R58). -/
structure Resp where
  /-- `0` OK, `1` NOTHING, `2` FAULT, `3` REFUSED (R61). -/
  status : BitVec 8
  /-- Meaning depends on `status` and the command. -/
  info : Word32
  /-- The output bytes. -/
  out : List Byte
deriving DecidableEq, Repr

/-- One RESP together with the op code of the CMD it answers: exactly one for each CMD (R58). -/
structure Answer where
  op : BitVec 8
  resp : Resp
deriving DecidableEq, Repr

/-- What the host may hand on next, one kind for each format of the opcode table: a CMD record (R57), the bytes of
a MSG (R55), the bytes of a FRAME (R54), or one of the two pseudo-instructions, which have no op code (R70).
DESIGN CHOICE, safe (log 3): the spec gives the port no wider shape than CMD. -/
inductive Input where
  | cmd (c : Cmd)
  | msg (bytes : List Byte)
  | frame (bytes : List Byte)
  | txData (bytes : List Byte)
  | rxDrain (bytes : List Byte)
deriving DecidableEq, Repr

end Sys2Proof
end

