-- ==== Sys2Proof/Syntax.lean ====
section
/-! DEFINITION. The instructions: one constructor for each row of spec/opcode_table.json. -/

namespace Sys2Proof

/-- The 25 rows of the opcode table, each with the fields its row uses (R59, R60, R65, R55, R54, R70).
`arg` operands keep all 32 bits: which values are legal is tested when the command runs, after the CLOSED test
(R124). The `r` of a reserved row are the don't-care bits of its op code. -/
inductive Instr where
  /-- RESET, op 0x01 (R108). -/
  | reset
  /-- STATUS, op 0x02 (R109). -/
  | status
  /-- SET_MODE, op 0x03: `arg` 0 XOR, 1 IDENTITY (R83). -/
  | setMode (lane : Lane) (arg : Word32)
  /-- SEED, op 0x04 (R75). -/
  | seed (lane : Lane) (secret iv : List Byte)
  /-- NEXT_BIT, op 0x05 (R78). -/
  | nextBit (lane : Lane)
  /-- PROCESS, op 0x06 (R84). -/
  | process (lane : Lane) (buf : List Byte)
  /-- PUSH, op 0x07 (R91). -/
  | push (bytes : List Byte)
  /-- EXTRACT_ONE, op 0x08 (R94). -/
  | extractOne
  /-- MAKE, op 0x09 (R97). -/
  | make (payload : List Byte)
  /-- ENCODE, op 0x0A: `arg` is the tag (R101). -/
  | encode (arg : Word32) (body : List Byte)
  /-- DECODE, op 0x0B (R103). -/
  | decode (msg : List Byte)
  /-- CLOSE, op 0x0C: `arg` is the cause (R110). -/
  | close (arg : Word32)
  /-- Reserved op 0x00 (R65). -/
  | reserved00
  /-- Reserved op 0x0D (R65). -/
  | reserved0D
  /-- Reserved ops 0x0E, 0x0F: 0000111r (R65). -/
  | reserved0E (r : BitVec 1)
  /-- Reserved ops 0x10 .. 0x1F: 0001rrrr (R65). -/
  | reserved10 (r : BitVec 4)
  /-- Reserved ops 0x20 .. 0x3F: 001rrrrr (R65). -/
  | reserved20 (r : BitVec 5)
  /-- Reserved ops 0x40 .. 0x7F: 01rrrrrr (R65). -/
  | reserved40 (r : BitVec 6)
  /-- Reserved ops 0x80 .. 0xFF: 1rrrrrrr (R65). -/
  | reserved80 (r : BitVec 7)
  /-- A MSG with type 1 (R56, R103). -/
  | msgReseed (body : List Byte)
  /-- A MSG with type 2 (R56, R103). -/
  | msgData (body : List Byte)
  /-- A MSG with any other type (R64, R104). -/
  | msgUnrecognised (tag : Word32) (body : List Byte)
  /-- A FRAME: LE32(L) then L payload bytes (R54). -/
  | frame (payload : List Byte)
  /-- The pseudo-instruction TX_DATA (R112). -/
  | txData (bytes : List Byte)
  /-- The pseudo-instruction RX_DRAIN (R114). -/
  | rxDrain (bytes : List Byte)
deriving DecidableEq, Repr

end Sys2Proof
end

