-- ==== Sys2Proof/WellFormed.lean ====
section
/-! DEFINITION. Which instruction terms have an encoding of their own row (30_encoding.md R54, R64). -/

namespace Sys2Proof

/-- An instruction is well formed when its row can encode it. Every CMD row and both scripts take every operand
(illegal `arg` values are refused by the command itself, R60). An unrecognised message's tag is none of the two
recognised ones (R64). A frame's payload length fits its 4-byte prefix (R54, R98). -/
def Instr.wellFormed : Instr → Bool
  | .msgUnrecognised tag _ => decide (tag ≠ 1#32) && decide (tag ≠ 2#32)
  | .frame payload => decide (payload.length < 2 ^ 32)
  | .reset | .status | .setMode _ _ | .seed _ _ _ | .nextBit _ | .process _ _ | .push _ | .extractOne | .make _
  | .encode _ _ | .decode _ | .close _ | .reserved00 | .reserved0D | .reserved0E _ | .reserved10 _ | .reserved20 _
  | .reserved40 _ | .reserved80 _ | .msgReseed _ | .msgData _ | .txData _ | .rxDrain _ => true

end Sys2Proof
end

