-- ==== Sys2Proof/Decode.lean ====
section
/-! DEFINITION. Byte order, the decoder (total, rejecting by name) and the encoder (30_encoding.md). -/

namespace Sys2Proof

/-- `LE32(v)` (R16): four bytes, least significant first. -/
def le32 (v : Nat) : List Byte :=
  [BitVec.ofNat 8 v, BitVec.ofNat 8 (v / 256), BitVec.ofNat 8 (v / 65536), BitVec.ofNat 8 (v / 16777216)]

/-- `UnLE32(b0, b1, b2, b3)` (R16): an unsigned number below 2^32. -/
def unLE32 (b0 b1 b2 b3 : Byte) : Nat :=
  b0.toNat + 256 * b1.toNat + 65536 * b2.toNat + 16777216 * b3.toNat

/-- The number assembled from the first four bytes of a stream (R63), where there are four. -/
def readU32 : List Byte → Option Nat
  | b0 :: b1 :: b2 :: b3 :: _ => some (unLE32 b0 b1 b2 b3)
  | _ => none

/-- CMD `lane`: `0` SEND, `1` RECV (R60). -/
def laneOf (bit : BitVec 1) : Lane := if bit = 0#1 then .send else .recv

/-- The number of a lane (R18). -/
def laneBit : Lane → BitVec 1
  | .send => 0#1
  | .recv => 1#1

/-- Why bytes that the host hands on as a MSG or a FRAME are none. -/
inductive DecodeError where
  /-- Fewer than four bytes: there is no type tag (R55). -/
  | noTag (bytes : List Byte)
  /-- Not exactly LE32(L) followed by L bytes (R54). -/
  | notOneFrame (bytes : List Byte)
deriving DecidableEq, Repr

/-- `op` lies in the row with this mask and match (spec/opcode_table.json). -/
def inRow (mask pat op : BitVec 8) : Bool := op &&& mask == pat

/-- The opcode map of R59, row by row with the mask and match of the opcode table. Every op code is in a row, so
no CMD record is rejected here; the fields a command does not use are dropped (R66). -/
def decodeCmd (c : Cmd) : Instr :=
  if inRow 0xFF#8 0x01#8 c.op then .reset
  else if inRow 0xFF#8 0x02#8 c.op then .status
  else if inRow 0xFF#8 0x03#8 c.op then .setMode (laneOf c.lane) c.arg
  else if inRow 0xFF#8 0x04#8 c.op then .seed (laneOf c.lane) c.a c.b
  else if inRow 0xFF#8 0x05#8 c.op then .nextBit (laneOf c.lane)
  else if inRow 0xFF#8 0x06#8 c.op then .process (laneOf c.lane) c.a
  else if inRow 0xFF#8 0x07#8 c.op then .push c.a
  else if inRow 0xFF#8 0x08#8 c.op then .extractOne
  else if inRow 0xFF#8 0x09#8 c.op then .make c.a
  else if inRow 0xFF#8 0x0A#8 c.op then .encode c.arg c.a
  else if inRow 0xFF#8 0x0B#8 c.op then .decode c.a
  else if inRow 0xFF#8 0x0C#8 c.op then .close c.arg
  else if inRow 0xFF#8 0x00#8 c.op then .reserved00
  else if inRow 0xFF#8 0x0D#8 c.op then .reserved0D
  else if inRow 0xFE#8 0x0E#8 c.op then .reserved0E (c.op.extractLsb' 0 1)
  else if inRow 0xF0#8 0x10#8 c.op then .reserved10 (c.op.extractLsb' 0 4)
  else if inRow 0xE0#8 0x20#8 c.op then .reserved20 (c.op.extractLsb' 0 5)
  else if inRow 0xC0#8 0x40#8 c.op then .reserved40 (c.op.extractLsb' 0 6)
  else .reserved80 (c.op.extractLsb' 0 7)

/-- A MSG is selected by its 32-bit tag, all four bytes compared (R56, R64, R104). -/
def decodeMsg (bytes : List Byte) : Except DecodeError Instr :=
  match readU32 bytes with
  | none => .error (.noTag bytes)
  | some tag =>
    if tag = 1 then .ok (.msgReseed (bytes.drop 4))
    else if tag = 2 then .ok (.msgData (bytes.drop 4))
    else .ok (.msgUnrecognised (BitVec.ofNat 32 tag) (bytes.drop 4))

/-- A FRAME is its four length bytes and exactly the announced payload (R54). -/
def decodeFrame (bytes : List Byte) : Except DecodeError Instr :=
  match readU32 bytes with
  | none => .error (.notOneFrame bytes)
  | some len => if bytes.length = 4 + len then .ok (.frame (bytes.drop 4)) else .error (.notOneFrame bytes)

/-- The decoder: total, each format by its own map (R59); the two scripts have no op code (R70). -/
def decode : Input → Except DecodeError Instr
  | .cmd c => .ok (decodeCmd c)
  | .msg bytes => decodeMsg bytes
  | .frame bytes => decodeFrame bytes
  | .txData bytes => .ok (.txData bytes)
  | .rxDrain bytes => .ok (.rxDrain bytes)

/-- The instruction the block runs for an input. Bytes rejected as a MSG are still an operand of DECODE, which
answers them with its FramingFault (R105); bytes rejected as a FRAME are still bytes of the stream, which PUSH
appends (R91). DESIGN CHOICE, safe (log 11): so that no input is without the effect the spec gives its bytes. -/
def fetched (x : Input) : Instr :=
  match decode x with
  | .ok i => i
  | .error (.noTag bytes) => .decode bytes
  | .error (.notOneFrame bytes) => .push bytes

/-- A CMD record with only an op code. -/
def bareCmd (op : BitVec 8) : Cmd := ⟨op, 0#1, 0#32, [], []⟩

/-- The op code that a CMD row's instruction has, its don't-care bits included (R59, R65); none for the rows of
the other formats. -/
def opCode : Instr → Option (BitVec 8)
  | .reset => some 0x01#8
  | .status => some 0x02#8
  | .setMode _ _ => some 0x03#8
  | .seed _ _ _ => some 0x04#8
  | .nextBit _ => some 0x05#8
  | .process _ _ => some 0x06#8
  | .push _ => some 0x07#8
  | .extractOne => some 0x08#8
  | .make _ => some 0x09#8
  | .encode _ _ => some 0x0A#8
  | .decode _ => some 0x0B#8
  | .close _ => some 0x0C#8
  | .reserved00 => some 0x00#8
  | .reserved0D => some 0x0D#8
  | .reserved0E r => some (0b0000111#7 ++ r)
  | .reserved10 r => some (0b0001#4 ++ r)
  | .reserved20 r => some (0b001#3 ++ r)
  | .reserved40 r => some (0b01#2 ++ r)
  | .reserved80 r => some (0b1#1 ++ r)
  | .msgReseed _ | .msgData _ | .msgUnrecognised _ _ | .frame _ | .txData _ | .rxDrain _ => none

/-- The encoder: the input that stands for an instruction, unused CMD fields zero or empty (R66), messages and
frames as R68 lays them out. -/
def encode : Instr → Input
  | .reset => .cmd (bareCmd 0x01#8)
  | .status => .cmd (bareCmd 0x02#8)
  | .setMode lane arg => .cmd ⟨0x03#8, laneBit lane, arg, [], []⟩
  | .seed lane secret iv => .cmd ⟨0x04#8, laneBit lane, 0#32, secret, iv⟩
  | .nextBit lane => .cmd ⟨0x05#8, laneBit lane, 0#32, [], []⟩
  | .process lane buf => .cmd ⟨0x06#8, laneBit lane, 0#32, buf, []⟩
  | .push bytes => .cmd ⟨0x07#8, 0#1, 0#32, bytes, []⟩
  | .extractOne => .cmd (bareCmd 0x08#8)
  | .make payload => .cmd ⟨0x09#8, 0#1, 0#32, payload, []⟩
  | .encode arg body => .cmd ⟨0x0A#8, 0#1, arg, body, []⟩
  | .decode msg => .cmd ⟨0x0B#8, 0#1, 0#32, msg, []⟩
  | .close arg => .cmd ⟨0x0C#8, 0#1, arg, [], []⟩
  | .reserved00 => .cmd (bareCmd 0x00#8)
  | .reserved0D => .cmd (bareCmd 0x0D#8)
  | .reserved0E r => .cmd (bareCmd (0b0000111#7 ++ r))
  | .reserved10 r => .cmd (bareCmd (0b0001#4 ++ r))
  | .reserved20 r => .cmd (bareCmd (0b001#3 ++ r))
  | .reserved40 r => .cmd (bareCmd (0b01#2 ++ r))
  | .reserved80 r => .cmd (bareCmd (0b1#1 ++ r))
  | .msgReseed body => .msg (le32 1 ++ body)
  | .msgData body => .msg (le32 2 ++ body)
  | .msgUnrecognised tag body => .msg (le32 tag.toNat ++ body)
  | .frame payload => .frame (le32 payload.length ++ payload)
  | .txData bytes => .txData bytes
  | .rxDrain bytes => .rxDrain bytes

/-- The input whose bits are `w`, for an opcode-table row of `nbits` bits: a CMD row has 8 (its op code; every
other field zero or empty), a MSG row has 32 (its tag, least significant byte first, R55; no body).
DESIGN CHOICE, safe (log 14). -/
def tableInput (nbits w : Nat) : Option Input :=
  if nbits = 8 then some (.cmd (bareCmd (BitVec.ofNat 8 w)))
  else if nbits = 32 then some (.msg (le32 w))
  else none

/-- The instruction the decoder reads from a word of the opcode table. -/
def decodeTableWord (nbits w : Nat) : Option Instr :=
  match tableInput nbits w with
  | none => none
  | some x =>
    match decode x with
    | .ok i => some i
    | .error _ => none

end Sys2Proof
end

