-- ==== Sys2Proof/Config.lean ====
section
/-! DEFINITION. The configuration record `Cfg` (00_scope.md R7 to R14) and the model's free values. Nothing here
is state: no command changes it (R33, R140). -/

namespace Sys2Proof

/-- One LFSR of the generator (R8): its width in bits and its tap positions. -/
structure Lfsr where
  /-- `W[j]`. -/
  width : Nat
  /-- `TAPS[j]`, a finite set of positions. -/
  taps : List Nat
deriving DecidableEq, Repr

/-- `POLY[j]`, the sum of `2^t` over the taps (R8). -/
def Lfsr.poly (l : Lfsr) : Nat := (l.taps.map (fun t => 2 ^ t)).sum

/-- `POLYLOW[j] = POLY[j] mod 2^W[j]`, the taps below the width (R8). -/
def Lfsr.polyLow (l : Lfsr) : Nat := l.poly % 2 ^ l.width

/-- The configuration record of R7 to R12. -/
structure Cfg where
  /-- The LFSRs in enumeration order: `NL`, `W`, `TAPS` (R7, R8). -/
  lfsrs : List Lfsr
  /-- `K`, the S-box address width (R9). -/
  k : Nat
  /-- `M`, the S-box entry width; 4 in the reference construction (R9). -/
  m : Nat
  /-- `SBOX`, entry 0 first (R9). -/
  sbox : List Nat
  /-- `ADDR_MSB_FIRST` (R10). -/
  addrMsbFirst : Bool
  /-- `H`, the hash of the seed expansion (R11, R76). -/
  hash : List Byte → List Byte
  /-- `HLEN`, the digest length in bytes (R11). -/
  hlen : Nat
  /-- `DemandEnc(D, i, bits so far)` (R76). -/
  demandEnc : Nat → Nat → Nat → List Byte
  /-- `FRAMER_CAP`; `none` is `INF` (R12). -/
  framerCap : Option Nat

/-- `NL`, the number of LFSRs of one generator (R7). -/
def Cfg.nl (cfg : Cfg) : Nat := cfg.lfsrs.length

/-- `W[0], W[1], ..` (R8). -/
def Cfg.widths (cfg : Cfg) : List Nat := cfg.lfsrs.map Lfsr.width

/-- `D`, the register bits of one lane and the bit demand of a seed (R20, R75). -/
def Cfg.demand (cfg : Cfg) : Nat := cfg.widths.sum

/-- A valid configuration (R14), with what R11 asks of the hash and R8 of a tap set. -/
structure Cfg.Valid (cfg : Cfg) : Prop where
  nl_pos : 1 ≤ cfg.nl
  width_pos : ∀ l ∈ cfg.lfsrs, 1 ≤ l.width
  taps_le : ∀ l ∈ cfg.lfsrs, ∀ t ∈ l.taps, t ≤ l.width
  taps_nodup : ∀ l ∈ cfg.lfsrs, l.taps.Nodup
  m_pos : 1 ≤ cfg.m
  sbox_length : cfg.sbox.length = 2 ^ cfg.k
  sbox_lt : ∀ v ∈ cfg.sbox, v < 2 ^ cfg.m
  hlen_pos : 1 ≤ cfg.hlen
  hash_length : ∀ x, (cfg.hash x).length = cfg.hlen
  cap_ge : ∀ c, cfg.framerCap = some c → 5 ≤ c

/-- A configuration together with its validity: "a model refuses to build a block from an invalid one" (R14). -/
abbrev ValidCfg := { cfg : Cfg // cfg.Valid }

/-- The smallest configuration, only to show that valid configurations exist. No statement rests on it. -/
def Cfg.smallest : Cfg where
  lfsrs := [⟨1, []⟩]
  k := 0
  m := 1
  sbox := [0]
  addrMsbFirst := false
  hash := fun _ => [0#8]
  hlen := 1
  demandEnc := fun _ _ _ => []
  framerCap := none

theorem Cfg.smallest_valid : Cfg.smallest.Valid where
  nl_pos := by decide
  width_pos := by simp [Cfg.smallest]
  taps_le := by simp [Cfg.smallest]
  taps_nodup := by simp [Cfg.smallest]
  m_pos := by decide
  sbox_length := by decide
  sbox_lt := by simp [Cfg.smallest]
  hlen_pos := by decide
  hash_length := by intro _; rfl
  cap_ge := by simp [Cfg.smallest]

namespace Config

/-- The configuration the block was built with: opaque, so that a claim holds for every valid configuration
(D9 to D12, U8 to U10). DESIGN CHOICE, safe (log 1). The bracketed argument only tells Lean that the type has an
element. -/
opaque built [Inhabited ValidCfg] : ValidCfg

/-- The configuration of the modelled block. -/
def config : Cfg := (@built ⟨⟨Cfg.smallest, Cfg.smallest_valid⟩⟩).val

theorem config_valid : config.Valid := (@built ⟨⟨Cfg.smallest, Cfg.smallest_valid⟩⟩).property

/-- What LFSR register `j` of a lane contains while it "holds no value" (R22, R34): a free value, "not zero, not
any fixed number". DESIGN CHOICE (log 2). -/
opaque noValue : Lane → Nat → Nat

end Config

end Sys2Proof
end

