-- ==== Sys2Proof/Machine/State.lean ====
section
/-! DEFINITION. The state of one block (10_state.md) and the model's two port fields; the state after reset; the
reasons a step can stop. -/

namespace Sys2Proof.Machine

/-- `MODE[c]` (R26). -/
inductive Mode where
  /-- Value 0: PROCESS is the keystream XOR. -/
  | xor
  /-- Value 1: PROCESS returns its input. -/
  | identity
deriving DecidableEq, Repr

/-- `STATE` (R27). -/
inductive RunState where
  /-- Value 0. -/
  | active
  /-- Value 1, terminal until RESET. -/
  | closed
deriving DecidableEq, Repr

/-- The events that close a block, with the causes of R120. -/
inductive Cause where
  | framingFault
  | unknownMessageType
  | unimplementedReseed
  | endOfStream
  | socketFault
deriving DecidableEq, Repr

/-- The reasons of R124. -/
inductive Reason where
  | illegalCommand
  | closed
  | notSeeded
  | framerFull
  | tooLong
  | badOperand
deriving DecidableEq, Repr

/-- One lane: a Cipher with the KeystreamGenerator it owns (R18). -/
structure LaneState where
  /-- `lfsr[c][0 .. NL-1]`, each an unsigned integer below `2^W[j]` (R20). -/
  lfsr : List Nat
  /-- `q[c]`, head first (R23). -/
  queue : List Bool
  /-- `SEEDED[c]` (R25). -/
  seeded : Bool
  /-- `MODE[c]` (R26). -/
  mode : Mode
deriving DecidableEq, Repr

/-- Everything the spec calls state (10_state.md, R33 for what is not). -/
structure Block where
  /-- Lane 0. -/
  send : LaneState
  /-- Lane 1. -/
  recv : LaneState
  /-- The framer buffer, oldest byte first (R30). -/
  fbuf : List Byte
  /-- `STATE` (R27). -/
  run : RunState
  /-- `CAUSE` (R27). -/
  cause : BitVec 4
  /-- `INFO` (R27). -/
  info : Word32
deriving DecidableEq, Repr

/-- The machine: the block, and the host's side of its command port. `pending` and `answers` are the MODEL's own
fields, not the spec's. DESIGN CHOICE, safe (log 3). -/
structure State where
  /-- The state of the block. -/
  block : Block
  /-- What the host has yet to issue, in issue order (R49). -/
  pending : List Input
  /-- The responses of the last instruction, in order: one for a command, one for each command of a script. -/
  answers : List Answer
deriving DecidableEq, Repr

/-- Why the machine would stop. It never does: a fault of the block (R126) is a next state in which `STATE` is
CLOSED, and every command terminates (R151). No constructor. -/
inductive Fault where
deriving DecidableEq, Repr

/-- Why an instruction would have no meaning. -/
inductive Refusal where
  /-- Raised only by an arm of `exec` whose instruction has no meaning yet: safe, since nothing is claimed of it.
  No arm raises it: every row of the table has its meaning. -/
  | notModelled (mnemonic : String)
deriving DecidableEq, Repr

/-- The registers of a lane that hold no value (R22): a free value in each, cut to its width (R20).
DESIGN CHOICE (log 2). -/
def unseededRegs (cfg : Cfg) (c : Lane) : List Nat :=
  cfg.lfsrs.mapIdx (fun j l => Config.noValue c j % 2 ^ l.width)

/-- A lane after reset (R34). -/
def resetLane (cfg : Cfg) (c : Lane) : LaneState where
  lfsr := unseededRegs cfg c
  queue := []
  seeded := false
  mode := .xor

/-- The block after reset (R34). -/
def resetBlock (cfg : Cfg) : Block where
  send := resetLane cfg .send
  recv := resetLane cfg .recv
  fbuf := []
  run := .active
  cause := 0#4
  info := 0#32

/-- The machine right after reset (R34, R139), with nothing issued and nothing answered (log 3, log 4). -/
def State.reset : State where
  block := resetBlock Config.config
  pending := []
  answers := []

end Sys2Proof.Machine
end

