-- ==== Sys2Proof/Machine/Ops.lean ====
section
/-! DEFINITION. The shared operations: lane access, the four ways a command ends (60_exceptions.md R119), fault
entry, and how an instruction's responses reach the port. -/

namespace Sys2Proof.Machine

/-- The state of a lane (R18). -/
def Block.lane (b : Block) : Lane → LaneState
  | .send => b.send
  | .recv => b.recv

/-- Replace the state of one lane; the other is a separate copy (R20, R35). -/
def Block.setLane (b : Block) (c : Lane) (l : LaneState) : Block :=
  match c with
  | .send => { b with send := l }
  | .recv => { b with recv := l }

/-- RESP `status` OK (R61). -/
def statusOk : BitVec 8 := 0#8

/-- RESP `status` NOTHING (R61). -/
def statusNothing : BitVec 8 := 1#8

/-- RESP `status` FAULT (R61). -/
def statusFault : BitVec 8 := 2#8

/-- RESP `status` REFUSED (R61). -/
def statusRefused : BitVec 8 := 3#8

/-- The cause codes of R120; 0 is NONE. -/
def Cause.code : Cause → BitVec 4
  | .framingFault => 1#4
  | .unknownMessageType => 2#4
  | .unimplementedReseed => 3#4
  | .endOfStream => 4#4
  | .socketFault => 5#4

/-- The refusal reasons of R124. -/
def Reason.code : Reason → Word32
  | .illegalCommand => 1#32
  | .closed => 2#32
  | .notSeeded => 3#32
  | .framerFull => 4#32
  | .tooLong => 5#32
  | .badOperand => 6#32

/-- `return v` (R17): status OK. -/
def okResp (info : Word32) (out : List Byte) : Resp := ⟨statusOk, info, out⟩

/-- The answer NOTHING of EXTRACT_ONE (R94). -/
def nothingResp : Resp := ⟨statusNothing, 0#32, []⟩

/-- The answer to a fault: `info` is the cause, `out` is empty (R126). -/
def faultResp (k : Cause) : Resp := ⟨statusFault, k.code.setWidth 32, []⟩

/-- The answer to a refusal: `info` is the reason, `out` is empty (R124). -/
def refusedResp (r : Reason) : Resp := ⟨statusRefused, r.code, []⟩

/-- `refuse r` (R124): no state change at all. -/
def refuse (r : Reason) (b : Block) : Block × Resp := (b, refusedResp r)

/-- What closing does to the block, whoever detects the event (R110, R126): `STATE`, `CAUSE`, `INFO` and nothing
more. -/
def Block.closeWith (b : Block) (k : Cause) (info : Word32) : Block :=
  { b with run := .closed, cause := k.code, info := info }

/-- Fault entry, `raise K(v)` (R126): the block closes with the cause and `v mod 2^32`, and the command ends with
FAULT. Nothing is saved and no handler runs; there is no return from a fault (R128): the one way out of CLOSED is
RESET (`cmdReset`). -/
def raiseFault (k : Cause) (v : Nat) (b : Block) : Block × Resp :=
  (b.closeWith k (BitVec.ofNat 32 v), faultResp k)

/-- The first test of every command but RESET and STATUS: a CLOSED block refuses (R125). -/
def whenActive (b : Block) (f : Block × Resp) : Block × Resp :=
  match b.run with
  | .closed => refuse .closed b
  | .active => f

/-- Is a framer buffer of `n` bytes within the capacity? Always, when it is INF (R12). -/
def capAdmits (cfg : Cfg) (n : Nat) : Bool :=
  match cfg.framerCap with
  | none => true
  | some cap => decide (n ≤ cap)

/-- Put a block and the responses of one instruction into the machine. -/
def State.finish (s : State) (b : Block) (as : List Answer) : State := { s with block := b, answers := as }

/-- The next state of a single command: its one RESP answers it (R58). -/
def State.commit (s : State) (op : BitVec 8) (r : Block × Resp) : State := s.finish r.1 [⟨op, r.2⟩]

end Sys2Proof.Machine
end

