-- ==== Sys2Proof/Machine/Operands.lean ====
section
/-! DEFINITION. The small operands of SET_MODE, ENCODE and CLOSE (30_encoding.md R60) and the op codes the host's
scripts use (R59). -/

namespace Sys2Proof.Machine

/-- SET_MODE `arg`: 0 XOR, 1 IDENTITY, any other value is a bad operand (R60). -/
def modeOperand (arg : Word32) : Option Mode :=
  if arg = 0#32 then some .xor
  else if arg = 1#32 then some .identity
  else none

/-- The type tag of a Reseed message (R56). -/
def tagReseed : Nat := 1

/-- The type tag of a Data message (R56). -/
def tagData : Nat := 2

/-- ENCODE `arg`: the tag 1 or 2, any other value is a bad operand (R60, R102). -/
def tagOperand (arg : Word32) : Option Nat :=
  if arg = 1#32 then some tagReseed
  else if arg = 2#32 then some tagData
  else none

/-- CLOSE `arg`: 3, 4 or 5, any other value is a bad operand (R60, R110). -/
def causeOperand (arg : Word32) : Option Cause :=
  if arg = 3#32 then some .unimplementedReseed
  else if arg = 4#32 then some .endOfStream
  else if arg = 5#32 then some .socketFault
  else none

def opReset : BitVec 8 := 0x01#8
def opStatus : BitVec 8 := 0x02#8
def opSetMode : BitVec 8 := 0x03#8
def opSeed : BitVec 8 := 0x04#8
def opNextBit : BitVec 8 := 0x05#8
def opProcess : BitVec 8 := 0x06#8
def opPush : BitVec 8 := 0x07#8
def opExtractOne : BitVec 8 := 0x08#8
def opMake : BitVec 8 := 0x09#8
def opEncode : BitVec 8 := 0x0A#8
def opDecode : BitVec 8 := 0x0B#8
def opClose : BitVec 8 := 0x0C#8

end Sys2Proof.Machine
end

