-- ==== Sys2Proof/Machine/Flags.lean ====
section
/-! DEFINITION. The flags and the status word (10_state.md R25 to R28). The block has no arithmetic condition
codes (R25). -/

namespace Sys2Proof.Machine

/-- The bit of a flag. -/
def flagBit (x : Bool) : BitVec 1 := if x then 1#1 else 0#1

/-- The value of `MODE[c]` (R26). -/
def Mode.bit : Mode → BitVec 1
  | .xor => 0#1
  | .identity => 1#1

/-- The value of `STATE` (R27). -/
def RunState.bit : RunState → BitVec 1
  | .active => 0#1
  | .closed => 1#1

/-- The status word `SW` (R28): `SW[3:0]` CAUSE, 4 STATE, 5 and 6 SEEDED, 7 and 8 MODE, `SW[31:9]` zero. -/
def statusWord (b : Block) : Word32 :=
  0#23 ++ b.recv.mode.bit ++ b.send.mode.bit ++ flagBit b.recv.seeded ++ flagBit b.send.seeded ++ b.run.bit ++ b.cause

end Sys2Proof.Machine
end

