-- ==== Sys2Proof/Machine/Keystream.lean ====
section
/-! DEFINITION. The keystream generator family (40_keystream.md): LFSR_NEXT, REFILL, the seed expansion, SEED,
NEXT_BIT. -/

namespace Sys2Proof.Machine

/-- LFSR_NEXT (R72): take the top bit, shift toward the top, then XOR the polynomial if the bit was 1. -/
def lfsrNext (l : Lfsr) (s : Nat) : Bool × Nat :=
  let b := s.testBit (l.width - 1)
  let s1 := (s <<< 1) % 2 ^ l.width
  (b, if b then s1 ^^^ l.polyLow else s1)

/-- One address bit of a refill (R74, inner loop): every LFSR steps once, and the bits they return are XORed
together. Where the lists differ in length (no reachable state, log 15), what has no partner stays as it is. -/
def stepAll : List Lfsr → List Nat → Bool × List Nat
  | l :: ls, s :: ss =>
    let r := lfsrNext l s
    let rest := stepAll ls ss
    (r.1 ^^ rest.1, r.2 :: rest.2)
  | [], ss => (false, ss)
  | _ :: _, [] => (false, [])

/-- The bit `x` as a number. -/
def bitVal (x : Bool) : Nat := if x then 1 else 0

/-- The outer loop of a refill (R74): `n` address bits are still to come, the next one is number `i`. -/
def addrLoop (cfg : Cfg) : Nat → Nat → Nat → List Nat → Nat × List Nat
  | 0, _, addr, regs => (addr, regs)
  | n + 1, i, addr, regs =>
    let r := stepAll cfg.lfsrs regs
    let addr' := if cfg.addrMsbFirst then (addr <<< 1) + bitVal r.1 else addr + (bitVal r.1 <<< i)
    addrLoop cfg n (i + 1) addr' r.2

/-- `MemRead(addr, 1)` (R17, R29): one entry of the S-box. The address is always inside the table (R74); the 0
stands for no entry of it (log 15). -/
def sboxRead (cfg : Cfg) (addr : Nat) : Nat := cfg.sbox.getD addr 0

/-- The bits `v[0], v[1], .., v[n-1]` (R15, R40). -/
def lowBits (n v : Nat) : List Bool := (List.range n).map (fun i => v.testBit i)

/-- REFILL (R74): `K` address bits, one lookup, `M` bits queued, least significant at the head. -/
def refill (cfg : Cfg) (l : LaneState) : LaneState :=
  let r := addrLoop cfg cfg.k 0 0 l.lfsr
  { l with lfsr := r.2, queue := lowBits cfg.m (sboxRead cfg r.1) }

/-- Remove the head of the queue. After a refill it is never empty, as `M ≥ 1` (R78; log 15). -/
def popBit (l : LaneState) : Bool × LaneState :=
  match l.queue with
  | bit :: rest => (bit, { l with queue := rest })
  | [] => (false, l)

/-- KBIT (R84): the body of NEXT_BIT, which refills the queue only when it is empty (R78). -/
def kbit (cfg : Cfg) (l : LaneState) : Bool × LaneState :=
  match l.queue with
  | [] => popBit (refill cfg l)
  | _ :: _ => popBit l

/-- The loop of the seed expansion (R76). `fuel` bounds the iterations; `D` of them always suffice, since each
digest brings at least 8 bits (R151). -/
def digestLoop (cfg : Cfg) (secret iv : List Byte) (demand : Nat) : Nat → Nat → List Byte → List Byte
  | 0, _, acc => acc
  | fuel + 1, i, acc =>
    if 8 * acc.length < demand then
      digestLoop cfg secret iv demand fuel (i + 1)
        (acc ++ cfg.hash (secret ++ iv ++ cfg.demandEnc demand i (8 * acc.length)))
    else acc

/-- `BE_int` (R16): the first byte is the most significant. -/
def beInt (bytes : List Byte) : Nat := bytes.foldl (fun n byte => 256 * n + byte.toNat) 0

/-- `Cfg.SeedExpand` in the structure the source fixes (R11, R76; log 13). -/
def seedExpand (cfg : Cfg) (secret iv : List Byte) (demand : Nat) : Nat :=
  beInt (digestLoop cfg secret iv demand demand 0 [])

/-- The split of the running integer over the LFSRs (R75): each takes its width in bits, low bits first. -/
def splitSeed : List Nat → Nat → List Nat
  | [], _ => []
  | w :: ws, x => x % 2 ^ w :: splitSeed ws (x >>> w)

/-- The lane after SEED (R75): every LFSR loaded, the queue emptied, SEEDED set, MODE untouched. -/
def seedLane (cfg : Cfg) (secret iv : List Byte) (l : LaneState) : LaneState :=
  { l with lfsr := splitSeed cfg.widths (seedExpand cfg secret iv cfg.demand), queue := [], seeded := true }

/-- SEED (R75). -/
def cmdSeed (cfg : Cfg) (c : Lane) (secret iv : List Byte) (b : Block) : Block × Resp :=
  whenActive b (b.setLane c (seedLane cfg secret iv (b.lane c)), okResp 0#32 [])

/-- NEXT_BIT (R78): refused on an unseeded lane, whatever its MODE. -/
def cmdNextBit (cfg : Cfg) (c : Lane) (b : Block) : Block × Resp :=
  whenActive b <|
    match (b.lane c).seeded with
    | false => refuse .notSeeded b
    | true =>
      let r := kbit cfg (b.lane c)
      (b.setLane c r.2, okResp (BitVec.ofNat 32 (bitVal r.1)) [])

/-- SEED lane, secret, iv (R75). -/
def execSeed (c : Lane) (secret iv : List Byte) (s : State) : Host.Outcome State Fault Refusal :=
  .next (s.commit opSeed (cmdSeed Config.config c secret iv s.block))

/-- NEXT_BIT lane (R78). -/
def execNextBit (c : Lane) (s : State) : Host.Outcome State Fault Refusal :=
  .next (s.commit opNextBit (cmdNextBit Config.config c s.block))

end Sys2Proof.Machine
end

