-- ==== Sys2Proof/Machine/Cipher.lean ====
section
/-! DEFINITION. The cipher family (41_cipher.md): SET_MODE, PROCESS. -/

namespace Sys2Proof.Machine

/-- The next `n` keystream bits of a lane, in order (R78, R84). -/
def kbits (cfg : Cfg) : Nat → LaneState → List Bool × LaneState
  | 0, l => ([], l)
  | n + 1, l =>
    let r := kbit cfg l
    let rest := kbits cfg n r.2
    (r.1 :: rest.1, rest.2)

/-- The number whose bit `p` is the `p`-th element: the first bit is the least significant (R39). -/
def bitsValue : List Bool → Nat
  | [] => 0
  | b :: bs => bitVal b + 2 * bitsValue bs

/-- One keystream byte: 8 bits, the first at position 0 (R39, R84). -/
def ksByte (cfg : Cfg) (l : LaneState) : Byte × LaneState :=
  let r := kbits cfg 8 l
  (BitVec.ofNat 8 (bitsValue r.1), r.2)

/-- The XOR transform (R84): bytes in buffer order, 8 keystream bits each. -/
def xorBuffer (cfg : Cfg) : List Byte → LaneState → List Byte × LaneState
  | [], l => ([], l)
  | x :: xs, l =>
    let k := ksByte cfg l
    let rest := xorBuffer cfg xs k.2
    ((x ^^^ k.1) :: rest.1, rest.2)

/-- SET_MODE (R83). -/
def cmdSetMode (c : Lane) (arg : Word32) (b : Block) : Block × Resp :=
  whenActive b <|
    match modeOperand arg with
    | none => refuse .badOperand b
    | some mode => (b.setLane c { b.lane c with mode := mode }, okResp 0#32 [])

/-- PROCESS (R84): CLOSED, then the IDENTITY shortcut, which looks at nothing else (R86), then NOT_SEEDED (R131). -/
def cmdProcess (cfg : Cfg) (c : Lane) (buf : List Byte) (b : Block) : Block × Resp :=
  whenActive b <|
    match (b.lane c).mode with
    | .identity => (b, okResp 0#32 buf)
    | .xor =>
      match (b.lane c).seeded with
      | false => refuse .notSeeded b
      | true =>
        let r := xorBuffer cfg buf (b.lane c)
        (b.setLane c r.2, okResp 0#32 r.1)

/-- SET_MODE lane, mode (R83). -/
def execSetMode (c : Lane) (arg : Word32) (s : State) : Host.Outcome State Fault Refusal :=
  .next (s.commit opSetMode (cmdSetMode c arg s.block))

/-- PROCESS lane, buf (R84). -/
def execProcess (c : Lane) (buf : List Byte) (s : State) : Host.Outcome State Fault Refusal :=
  .next (s.commit opProcess (cmdProcess Config.config c buf s.block))

end Sys2Proof.Machine
end

