-- ==== Sys2Proof/Machine/Codec.lean ====
section
/-! DEFINITION. The message codec family (43_codec.md): ENCODE, DECODE. -/

namespace Sys2Proof.Machine

/-- ENCODE (R101), refused for a tag other than the two (R102). -/
def cmdEncode (arg : Word32) (body : List Byte) (b : Block) : Block × Resp :=
  whenActive b <|
    match tagOperand arg with
    | none => refuse .badOperand b
    | some tag => (b, okResp 0#32 (le32 tag ++ body))

/-- DECODE (R103): a short message is a FramingFault (R105), a tag other than 1 and 2 an UnknownMessageType
(R104); a Reseed is decoded like a Data message. -/
def cmdDecode (msg : List Byte) (b : Block) : Block × Resp :=
  whenActive b <|
    match readU32 msg with
    | none => raiseFault .framingFault msg.length b
    | some tag =>
      if tag = tagReseed ∨ tag = tagData then (b, okResp (BitVec.ofNat 32 tag) (msg.drop 4))
      else raiseFault .unknownMessageType tag b

/-- ENCODE kind, body (R101). -/
def execEncode (arg : Word32) (body : List Byte) (s : State) : Host.Outcome State Fault Refusal :=
  .next (s.commit opEncode (cmdEncode arg body s.block))

/-- DECODE msg (R103). -/
def execDecode (msg : List Byte) (s : State) : Host.Outcome State Fault Refusal :=
  .next (s.commit opDecode (cmdDecode msg s.block))

end Sys2Proof.Machine
end

