-- ==== Sys2Proof/Machine/Framer.lean ====
section
/-! DEFINITION. The framer family (42_framer.md): PUSH, EXTRACT_ONE, MAKE. -/

namespace Sys2Proof.Machine

/-- PUSH (R91), refused whole when the bytes would not fit (R93). -/
def cmdPush (cfg : Cfg) (bytes : List Byte) (b : Block) : Block × Resp :=
  whenActive b <|
    match capAdmits cfg (b.fbuf.length + bytes.length) with
    | false => refuse .framerFull b
    | true => ({ b with fbuf := b.fbuf ++ bytes }, okResp 0#32 [])

/-- EXTRACT_ONE (R94): NOTHING under four bytes, then the capacity fault (R96), then NOTHING for an incomplete
payload (R131). Lengths are natural numbers: `4 + L` does not wrap. -/
def cmdExtractOne (cfg : Cfg) (b : Block) : Block × Resp :=
  whenActive b <|
    match readU32 b.fbuf with
    | none => (b, nothingResp)
    | some len =>
      match capAdmits cfg (4 + len) with
      | false => raiseFault .framingFault len b
      | true =>
        if b.fbuf.length < 4 + len then (b, nothingResp)
        else ({ b with fbuf := b.fbuf.drop (4 + len) }, okResp (BitVec.ofNat 32 len) ((b.fbuf.drop 4).take len))

/-- MAKE (R97), refused for a payload whose length has no 4-byte prefix (R98). -/
def cmdMake (payload : List Byte) (b : Block) : Block × Resp :=
  whenActive b <|
    if 2 ^ 32 ≤ payload.length then refuse .tooLong b
    else (b, okResp 0#32 (le32 payload.length ++ payload))

/-- PUSH bytes (R91). -/
def execPush (bytes : List Byte) (s : State) : Host.Outcome State Fault Refusal :=
  .next (s.commit opPush (cmdPush Config.config bytes s.block))

/-- EXTRACT_ONE (R94). -/
def execExtractOne (s : State) : Host.Outcome State Fault Refusal :=
  .next (s.commit opExtractOne (cmdExtractOne Config.config s.block))

/-- MAKE payload (R97). -/
def execMake (payload : List Byte) (s : State) : Host.Outcome State Fault Refusal :=
  .next (s.commit opMake (cmdMake payload s.block))

end Sys2Proof.Machine
end

