-- ==== Sys2Proof/Machine/System.lean ====
section
/-! DEFINITION. The system commands (44_system_and_macros.md): RESET, STATUS, CLOSE; and the reserved op codes
(30_encoding.md R65). -/

namespace Sys2Proof.Machine

/-- RESET (R108): accepted in every state; nothing of the block survives. It is also the only way back from a
fault (R128). -/
def cmdReset (cfg : Cfg) (_ : Block) : Block × Resp := (resetBlock cfg, okResp 0#32 [])

/-- STATUS (R109): accepted in every state, writes nothing. -/
def cmdStatus (b : Block) : Block × Resp := (b, okResp (statusWord b) (le32 b.info.toNat))

/-- CLOSE (R110): the host reports an event; the first cause is kept. -/
def cmdClose (arg : Word32) (b : Block) : Block × Resp :=
  whenActive b <|
    match causeOperand arg with
    | none => refuse .badOperand b
    | some cause => (b.closeWith cause 0#32, okResp 0#32 [])

/-- A reserved op code (R65): refused ILLEGAL_COMMAND, tested before CLOSED (R124). -/
def cmdReserved (b : Block) : Block × Resp := refuse .illegalCommand b

/-- RESET (R108). -/
def execReset (s : State) : Host.Outcome State Fault Refusal :=
  .next (s.commit opReset (cmdReset Config.config s.block))

/-- STATUS (R109). -/
def execStatus (s : State) : Host.Outcome State Fault Refusal :=
  .next (s.commit opStatus (cmdStatus s.block))

/-- CLOSE cause (R110). -/
def execClose (arg : Word32) (s : State) : Host.Outcome State Fault Refusal :=
  .next (s.commit opClose (cmdClose arg s.block))

/-- Reserved op 0x00 (R65). -/
def execReserved00 (s : State) : Host.Outcome State Fault Refusal :=
  .next (s.commit 0x00#8 (cmdReserved s.block))

/-- Reserved op 0x0D (R65). -/
def execReserved0D (s : State) : Host.Outcome State Fault Refusal :=
  .next (s.commit 0x0D#8 (cmdReserved s.block))

/-- Reserved ops 0x0E, 0x0F (R65). -/
def execReserved0E (r : BitVec 1) (s : State) : Host.Outcome State Fault Refusal :=
  .next (s.commit (0b0000111#7 ++ r) (cmdReserved s.block))

/-- Reserved ops 0x10 .. 0x1F (R65). -/
def execReserved10 (r : BitVec 4) (s : State) : Host.Outcome State Fault Refusal :=
  .next (s.commit (0b0001#4 ++ r) (cmdReserved s.block))

/-- Reserved ops 0x20 .. 0x3F (R65). -/
def execReserved20 (r : BitVec 5) (s : State) : Host.Outcome State Fault Refusal :=
  .next (s.commit (0b001#3 ++ r) (cmdReserved s.block))

/-- Reserved ops 0x40 .. 0x7F (R65). -/
def execReserved40 (r : BitVec 6) (s : State) : Host.Outcome State Fault Refusal :=
  .next (s.commit (0b01#2 ++ r) (cmdReserved s.block))

/-- Reserved ops 0x80 .. 0xFF (R65). -/
def execReserved80 (r : BitVec 7) (s : State) : Host.Outcome State Fault Refusal :=
  .next (s.commit (0b1#1 ++ r) (cmdReserved s.block))

end Sys2Proof.Machine
end

