-- ==== Sys2Proof/Machine/Relay.lean ====
section
/-! DEFINITION. The wire formats MSG and FRAME as the block meets them (30_encoding.md R54 to R56), and the two
pseudo-instructions TX_DATA and RX_DRAIN (44_system_and_macros.md R112 to R117), which the host runs as commands. -/

namespace Sys2Proof.Machine

/-- A MSG with type 1 (R103): what DECODE does with it (log 6). -/
def execMsgReseed (body : List Byte) (s : State) : Host.Outcome State Fault Refusal :=
  .next (s.commit opDecode (cmdDecode (le32 tagReseed ++ body) s.block))

/-- A MSG with type 2 (R103): what DECODE does with it (log 6). -/
def execMsgData (body : List Byte) (s : State) : Host.Outcome State Fault Refusal :=
  .next (s.commit opDecode (cmdDecode (le32 tagData ++ body) s.block))

/-- A MSG with another type (R104): what DECODE does with it (log 6). -/
def execMsgUnrecognised (tag : Word32) (body : List Byte) (s : State) : Host.Outcome State Fault Refusal :=
  .next (s.commit opDecode (cmdDecode (le32 tag.toNat ++ body) s.block))

/-- A host script under way: the block, the responses so far, and whether the host goes on. -/
structure Relay where
  block : Block
  answers : List Answer
  goesOn : Bool
deriving DecidableEq, Repr

/-- One command of a script. The host goes on after OK alone: a refusal, a fault or NOTHING ends what it was doing
(R112, R114; for the refusals of RX_DRAIN log 10). -/
def issue (op : BitVec 8) (r : Block × Resp) : Relay := ⟨r.1, [⟨op, r.2⟩], r.2.status == statusOk⟩

/-- Go on with a script where the host goes on, keeping the responses in order. -/
def Relay.andThen (x : Relay) (f : Block → Relay) : Relay :=
  match x.goesOn with
  | true =>
    let y := f x.block
    ⟨y.block, x.answers ++ y.answers, y.goesOn⟩
  | false => x

/-- A FRAME arrives and is taken apart: PUSH of its bytes, then EXTRACT_ONE (R54, R94; log 7). -/
def relayFrame (cfg : Cfg) (payload : List Byte) (b : Block) : Relay :=
  (issue opPush (cmdPush cfg (le32 payload.length ++ payload) b)).andThen fun b1 =>
    issue opExtractOne (cmdExtractOne cfg b1)

/-- TX_DATA (R112): zero bytes are end of stream (R113); otherwise PROCESS on lane SEND, ENCODE as Data, MAKE, each
on the output of the one before, stopping at a refusal. -/
def relayTx (cfg : Cfg) (bytes : List Byte) (b : Block) : Relay :=
  match bytes with
  | [] => issue opClose (cmdClose 4#32 b)
  | _ :: _ =>
    let p := cmdProcess cfg .send bytes b
    (issue opProcess p).andThen fun b1 =>
      let e := cmdEncode 2#32 p.2.out b1
      (issue opEncode e).andThen fun b2 =>
        issue opMake (cmdMake e.2.out b2)

/-- One extracted payload in RX_DRAIN (R114): DECODE; a Data body goes whole through PROCESS on lane RECV (R115);
a Reseed is answered with CLOSE UNIMPLEMENTED_RESEED and ends the script (R117). -/
def relayMessage (cfg : Cfg) (payload : List Byte) (b : Block) : Relay :=
  let d := cmdDecode payload b
  (issue opDecode d).andThen fun b1 =>
    if d.2.info = 2#32 then issue opProcess (cmdProcess cfg .recv d.2.out b1)
    else { issue opClose (cmdClose 3#32 b1) with goesOn := false }

/-- The loop of RX_DRAIN (R114, R116 (a)): messages strictly one after another, each fully handled before the next
EXTRACT_ONE. It ends normally, and `goesOn` is true, when EXTRACT_ONE answers NOTHING. `fuel` bounds the
iterations; one more than the buffered bytes always suffices, since each frame removes at least four (R94). -/
def relayDrain (cfg : Cfg) : Nat → Block → Relay
  | 0, b => ⟨b, [], true⟩
  | fuel + 1, b =>
    let e := cmdExtractOne cfg b
    if e.2.status = statusNothing then ⟨e.1, [⟨opExtractOne, e.2⟩], true⟩
    else
      (issue opExtractOne e).andThen fun b1 =>
        (relayMessage cfg e.2.out b1).andThen fun b2 => relayDrain cfg fuel b2

/-- The whole drain of what a block has buffered. -/
def drainAll (cfg : Cfg) (b : Block) : Relay := relayDrain cfg (b.fbuf.length + 1) b

/-- The free bytes of a finite framer buffer, the most the host may push (R93). -/
def room (cfg : Cfg) (b : Block) : Nat :=
  match cfg.framerCap with
  | none => 0
  | some cap => cap - b.fbuf.length

/-- The feeding part of RX_DRAIN (R93, R114): PUSH, and drain; on FRAMER_FULL, push the longest prefix that fits,
drain, and push the rest the same way (log 9). `fuel` bounds the rounds; two more than the bytes always suffices,
since after a drain at least one byte fits (R93). -/
def relayFeed (cfg : Cfg) : Nat → List Byte → Block → Relay
  | 0, _, b => ⟨b, [], true⟩
  | fuel + 1, bytes, b =>
    let p := cmdPush cfg bytes b
    if p.2 = refusedResp .framerFull then
      let n := room cfg b
      (Relay.mk b [⟨opPush, p.2⟩] true).andThen fun b1 =>
        (issue opPush (cmdPush cfg (bytes.take n) b1)).andThen fun b2 =>
          (drainAll cfg b2).andThen fun b3 => relayFeed cfg fuel (bytes.drop n) b3
    else (issue opPush p).andThen fun b1 => drainAll cfg b1

/-- RX_DRAIN (R114). -/
def relayRx (cfg : Cfg) (bytes : List Byte) (b : Block) : Relay := relayFeed cfg (bytes.length + 2) bytes b

/-- `wire`, the result of TX_DATA (R112): the output of its MAKE, if it came to one that answered OK. -/
def wireOf (as : List Answer) : Option (List Byte) :=
  (as.find? fun a => a.op == opMake && a.resp.status == statusOk).map fun a => a.resp.out

/-- `outs`, the result of RX_DRAIN (R114): the outputs of its PROCESS commands in order. They stand nowhere but in
the PROCESS responses (R137). -/
def outsOf (as : List Answer) : List (List Byte) :=
  (as.filter fun a => a.op == opProcess && a.resp.status == statusOk).map fun a => a.resp.out

/-- A FRAME (R54, R94). -/
def execFrame (payload : List Byte) (s : State) : Host.Outcome State Fault Refusal :=
  .next (s.finish (relayFrame Config.config payload s.block).block (relayFrame Config.config payload s.block).answers)

/-- TX_DATA bytes (R112), run whole in one step (log 8). -/
def execTxData (bytes : List Byte) (s : State) : Host.Outcome State Fault Refusal :=
  .next (s.finish (relayTx Config.config bytes s.block).block (relayTx Config.config bytes s.block).answers)

/-- RX_DRAIN bytes (R114), run whole in one step (log 8). -/
def execRxDrain (bytes : List Byte) (s : State) : Host.Outcome State Fault Refusal :=
  .next (s.finish (relayRx Config.config bytes s.block).block (relayRx Config.config bytes s.block).answers)

end Sys2Proof.Machine
end

