-- ==== Sys2Proof/Machine/Dispatch.lean ====
section
/-! DEFINITION. One arm per instruction. -/

namespace Sys2Proof.Machine

/-- The meaning of each instruction. -/
def exec (i : Instr) (s : State) : Host.Outcome State Fault Refusal :=
  match i with
  | .reset => Sys2Proof.Machine.execReset s
  | .status => Sys2Proof.Machine.execStatus s
  | .setMode lane arg => Sys2Proof.Machine.execSetMode lane arg s
  | .seed lane secret iv => Sys2Proof.Machine.execSeed lane secret iv s
  | .nextBit lane => Sys2Proof.Machine.execNextBit lane s
  | .process lane buf => Sys2Proof.Machine.execProcess lane buf s
  | .push bytes => Sys2Proof.Machine.execPush bytes s
  | .extractOne => Sys2Proof.Machine.execExtractOne s
  | .make payload => Sys2Proof.Machine.execMake payload s
  | .encode arg body => Sys2Proof.Machine.execEncode arg body s
  | .decode msg => Sys2Proof.Machine.execDecode msg s
  | .close arg => Sys2Proof.Machine.execClose arg s
  | .reserved00 => Sys2Proof.Machine.execReserved00 s
  | .reserved0D => Sys2Proof.Machine.execReserved0D s
  | .reserved0E r => Sys2Proof.Machine.execReserved0E r s
  | .reserved10 r => Sys2Proof.Machine.execReserved10 r s
  | .reserved20 r => Sys2Proof.Machine.execReserved20 r s
  | .reserved40 r => Sys2Proof.Machine.execReserved40 r s
  | .reserved80 r => Sys2Proof.Machine.execReserved80 r s
  | .msgReseed body => Sys2Proof.Machine.execMsgReseed body s
  | .msgData body => Sys2Proof.Machine.execMsgData body s
  | .msgUnrecognised tag body => Sys2Proof.Machine.execMsgUnrecognised tag body s
  | .frame payload => Sys2Proof.Machine.execFrame payload s
  | .txData bytes => Sys2Proof.Machine.execTxData bytes s
  | .rxDrain bytes => Sys2Proof.Machine.execRxDrain bytes s

end Sys2Proof.Machine
end

