-- ==== Sys2Proof/Machine/Step.lean ====
section
/-! DEFINITION. One step: the block takes the oldest input the host has issued and runs it (20_memory.md R45, R49). -/

namespace Sys2Proof.Machine

/-- One indivisible transition. With nothing issued the block holds its state and does nothing (R138; log 5).
Otherwise the oldest input leaves the queue and its instruction runs. -/
def step (s : State) : Host.Outcome State Fault Refusal :=
  match s.pending with
  | [] => .next s
  | x :: rest => exec (fetched x) { s with pending := rest }

/-- The machine with the instruction of an opcode-table word issued next, before whatever else is pending. A width
that no row has issues nothing (log 4, log 14). -/
def State.withFetchWord (s : State) (nbits w : Nat) : State :=
  match tableInput nbits w with
  | none => s
  | some x => { s with pending := x :: s.pending }

end Sys2Proof.Machine
end

