-- ==== Sys2Proof/Safety.lean ====
section
/-! DEFINITION. The terms claims use: the invariant of 10_state.md R36, runs of the machine, the keystream of a
lane, the wire bytes of 30_encoding.md R68, and the scripts run one after another. -/

namespace Sys2Proof.Machine

/-- What R36 says of one lane: a seeded lane's registers fit their widths, the queue holds at most `M` bits, an
unseeded lane's queue is empty; with R20's number of registers. -/
structure LaneInv (cfg : Cfg) (l : LaneState) : Prop where
  regs_length : l.lfsr.length = cfg.nl
  regs_fit : l.seeded = true → List.Forall₂ (fun (f : Lfsr) (r : Nat) => r < 2 ^ f.width) cfg.lfsrs l.lfsr
  queue_le : l.queue.length ≤ cfg.m
  unseeded_queue : l.seeded = false → l.queue = []

/-- The invariants of R36: both lanes, the framer buffer within its capacity, and CAUSE 0 exactly while ACTIVE,
with INFO 0 then. -/
structure BlockInv (cfg : Cfg) (b : Block) : Prop where
  send : LaneInv cfg b.send
  recv : LaneInv cfg b.recv
  fbuf_le : ∀ cap, cfg.framerCap = some cap → b.fbuf.length ≤ cap
  active_iff : b.run = .active ↔ b.cause = 0#4
  active_info : b.run = .active → b.info = 0#32

/-- The invariant of a machine state. -/
def State.Inv (s : State) : Prop := BlockInv Config.config s.block

/-- The safe outcome: the machine goes on. -/
def completes (o : Host.Outcome State Fault Refusal) : Prop := ∃ t, o = .next t

/-- The machine after running instructions one after another (R49), and all their responses in order. -/
def runAll : List Instr → State → Option (State × List Answer)
  | [], s => some (s, [])
  | i :: is, s =>
    match exec i s with
    | .next s1 =>
      match runAll is s1 with
      | some (s2, as) => some (s2, s1.answers ++ as)
      | none => none
    | .fault _ => none
    | .refused _ => none

/-- The fields of a CMD record that its command uses (the table of R59), the others zero or empty. -/
def usedFields (c : Cmd) : Cmd where
  op := c.op
  lane := if c.op ∈ [0x03#8, 0x04#8, 0x05#8, 0x06#8] then c.lane else 0#1
  arg := if c.op ∈ [0x03#8, 0x0A#8, 0x0C#8] then c.arg else 0#32
  a := if c.op ∈ [0x04#8, 0x06#8, 0x07#8, 0x09#8, 0x0A#8, 0x0B#8] then c.a else []
  b := if c.op = 0x04#8 then c.b else []

/-- One LFSR's register after `n` steps (R72). -/
def lfsrIter (l : Lfsr) : Nat → Nat → Nat
  | 0, s => s
  | n + 1, s => lfsrIter l n (lfsrNext l s).2

/-- The `i`-th XOR result of a refill (R74): the XOR of the bits that all LFSRs return at their `i`-th step. -/
def addrBit (cfg : Cfg) (regs : List Nat) (i : Nat) : Bool :=
  (List.zipWith (fun l s => (lfsrNext l (lfsrIter l i s)).1) cfg.lfsrs regs).foldl Bool.xor false

/-- `KS(S, I)[t]` (R79): keystream bit `t` of a generator freshly seeded with `(S, I)`. -/
def keystreamBit (cfg : Cfg) (secret iv : List Byte) (t : Nat) : Bool :=
  (kbit cfg (kbits cfg t (seedLane cfg secret iv ⟨[], [], false, .xor⟩)).2).1

/-- A lane with its registers left out where they hold no value, that is, while it is not seeded (R22). Two lanes
have the same masked state exactly when they differ in nothing but such registers. -/
def LaneState.masked (l : LaneState) : LaneState :=
  if l.seeded = true then l else { l with lfsr := [] }

/-- A block with the registers that hold no value left out (R22). -/
def Block.masked (b : Block) : Block := { b with send := b.send.masked, recv := b.recv.masked }

/-- PROCESS accepts a lane that is in IDENTITY mode or seeded (R84, R86). -/
def LaneState.accepts (l : LaneState) : Prop := l.mode = .identity ∨ l.seeded = true

/-- What PROCESS returns on a lane it accepts, and the lane after it (R84, R86). -/
def processLane (cfg : Cfg) (buf : List Byte) (l : LaneState) : List Byte × LaneState :=
  match l.mode with
  | .identity => (buf, l)
  | .xor => xorBuffer cfg buf l

/-- The same for several buffers, each in a PROCESS of its own. -/
def processEach (cfg : Cfg) : List (List Byte) → LaneState → List (List Byte) × LaneState
  | [], l => ([], l)
  | m :: ms, l =>
    let x := processLane cfg m l
    let y := processEach cfg ms x.2
    (x.1 :: y.1, y.2)

/-- Two lanes that agree in all that a keystream depends on: registers and queue (R87). -/
def sameKeystream (l l' : LaneState) : Prop := l.lfsr = l'.lfsr ∧ l.queue = l'.queue

/-- Two lanes that can be the two ends of one direction (R88, R118): in the same mode and, where it is XOR, both
seeded and at the same keystream state. -/
def paired (l l' : LaneState) : Prop :=
  l.mode = l'.mode ∧ (l.mode = .xor → l.seeded = true ∧ l'.seeded = true ∧ sameKeystream l l')

/-- The bytes of a frame (R54). -/
def frameBytes (payload : List Byte) : List Byte := le32 payload.length ++ payload

/-- The bytes of a Data message in a frame (R68). -/
def dataOnWire (body : List Byte) : List Byte := frameBytes (le32 2 ++ body)

/-- The outputs of one command of a transcript that answered OK, in order. -/
def okOutputs (op : BitVec 8) (as : List Answer) : List (List Byte) :=
  (as.filter fun a => a.op == op && a.resp.status == statusOk).map fun a => a.resp.out

/-- TX_DATA on one read after another, with all responses. -/
def txAll (cfg : Cfg) : List (List Byte) → Block → Block × List Answer
  | [], b => (b, [])
  | m :: ms, b =>
    let x := relayTx cfg m b
    let y := txAll cfg ms x.block
    (y.1, x.answers ++ y.2)

/-- RX_DRAIN on one read after another, with all responses. -/
def rxAll (cfg : Cfg) : List (List Byte) → Block → Block × List Answer
  | [], b => (b, [])
  | m :: ms, b =>
    let x := relayRx cfg m b
    let y := rxAll cfg ms x.block
    (y.1, x.answers ++ y.2)

end Sys2Proof.Machine
end

