-- ==== Sys2Proof/Laws/State.lean ====
section
/-! SUPPORT. One lemma per field per update, each true by unfolding once; later proofs cite them and unfold no
record update. -/

namespace Sys2Proof.Machine

@[simp] theorem Block.lane_send (b : Block) : b.lane .send = b.send := rfl
@[simp] theorem Block.lane_recv (b : Block) : b.lane .recv = b.recv := rfl

@[simp] theorem Block.setLane_fbuf (b : Block) (c : Lane) (l : LaneState) : (b.setLane c l).fbuf = b.fbuf := by
  cases c <;> rfl
@[simp] theorem Block.setLane_run (b : Block) (c : Lane) (l : LaneState) : (b.setLane c l).run = b.run := by
  cases c <;> rfl
@[simp] theorem Block.setLane_cause (b : Block) (c : Lane) (l : LaneState) : (b.setLane c l).cause = b.cause := by
  cases c <;> rfl
@[simp] theorem Block.setLane_info (b : Block) (c : Lane) (l : LaneState) : (b.setLane c l).info = b.info := by
  cases c <;> rfl
@[simp] theorem Block.lane_setLane_same (b : Block) (c : Lane) (l : LaneState) : (b.setLane c l).lane c = l := by
  cases c <;> rfl
theorem Block.lane_setLane_other (b : Block) (c c' : Lane) (l : LaneState) (h : c' ≠ c) :
    (b.setLane c l).lane c' = b.lane c' := by
  cases c <;> cases c' <;> first | rfl | exact absurd rfl h
@[simp] theorem Block.setLane_lane (b : Block) (c : Lane) : b.setLane c (b.lane c) = b := by
  cases c <;> rfl
@[simp] theorem Block.setLane_setLane (b : Block) (c : Lane) (l l' : LaneState) :
    (b.setLane c l).setLane c l' = b.setLane c l' := by
  cases c <;> rfl

@[simp] theorem Block.closeWith_lane (b : Block) (k : Cause) (v : Word32) (c : Lane) :
    (b.closeWith k v).lane c = b.lane c := by
  cases c <;> rfl
@[simp] theorem Block.closeWith_send (b : Block) (k : Cause) (v : Word32) : (b.closeWith k v).send = b.send := rfl
@[simp] theorem Block.closeWith_recv (b : Block) (k : Cause) (v : Word32) : (b.closeWith k v).recv = b.recv := rfl
@[simp] theorem Block.closeWith_fbuf (b : Block) (k : Cause) (v : Word32) : (b.closeWith k v).fbuf = b.fbuf := rfl
@[simp] theorem Block.closeWith_run (b : Block) (k : Cause) (v : Word32) : (b.closeWith k v).run = .closed := rfl
@[simp] theorem Block.closeWith_cause (b : Block) (k : Cause) (v : Word32) : (b.closeWith k v).cause = k.code := rfl
@[simp] theorem Block.closeWith_info (b : Block) (k : Cause) (v : Word32) : (b.closeWith k v).info = v := rfl

@[simp] theorem State.finish_block (s : State) (b : Block) (as : List Answer) : (s.finish b as).block = b := rfl
@[simp] theorem State.finish_pending (s : State) (b : Block) (as : List Answer) :
    (s.finish b as).pending = s.pending := rfl
@[simp] theorem State.finish_answers (s : State) (b : Block) (as : List Answer) : (s.finish b as).answers = as := rfl

@[simp] theorem State.commit_block (s : State) (op : BitVec 8) (r : Block × Resp) : (s.commit op r).block = r.1 := rfl
@[simp] theorem State.commit_pending (s : State) (op : BitVec 8) (r : Block × Resp) :
    (s.commit op r).pending = s.pending := rfl
@[simp] theorem State.commit_answers (s : State) (op : BitVec 8) (r : Block × Resp) :
    (s.commit op r).answers = [⟨op, r.2⟩] := rfl

@[simp] theorem okResp_status (v : Word32) (out : List Byte) : (okResp v out).status = statusOk := rfl
@[simp] theorem okResp_info (v : Word32) (out : List Byte) : (okResp v out).info = v := rfl
@[simp] theorem okResp_out (v : Word32) (out : List Byte) : (okResp v out).out = out := rfl
@[simp] theorem nothingResp_status : nothingResp.status = statusNothing := rfl
@[simp] theorem nothingResp_out : nothingResp.out = [] := rfl
@[simp] theorem faultResp_status (k : Cause) : (faultResp k).status = statusFault := rfl
@[simp] theorem faultResp_out (k : Cause) : (faultResp k).out = [] := rfl
@[simp] theorem refusedResp_status (r : Reason) : (refusedResp r).status = statusRefused := rfl
@[simp] theorem refusedResp_info (r : Reason) : (refusedResp r).info = r.code := rfl
@[simp] theorem refusedResp_out (r : Reason) : (refusedResp r).out = [] := rfl

@[simp] theorem LaneState.masked_seeded (l : LaneState) : l.masked.seeded = l.seeded := by
  unfold LaneState.masked; split <;> rfl
@[simp] theorem LaneState.masked_mode (l : LaneState) : l.masked.mode = l.mode := by
  unfold LaneState.masked; split <;> rfl
@[simp] theorem LaneState.masked_queue (l : LaneState) : l.masked.queue = l.queue := by
  unfold LaneState.masked; split <;> rfl
/-- A seeded lane is masked nowhere. -/
theorem LaneState.masked_of_seeded (l : LaneState) (h : l.seeded = true) : l.masked = l := if_pos h
@[simp] theorem Block.masked_lane (b : Block) (c : Lane) : b.masked.lane c = (b.lane c).masked := by
  cases c <;> rfl
@[simp] theorem Block.masked_fbuf (b : Block) : b.masked.fbuf = b.fbuf := rfl
@[simp] theorem Block.masked_run (b : Block) : b.masked.run = b.run := rfl
@[simp] theorem Block.masked_cause (b : Block) : b.masked.cause = b.cause := rfl
@[simp] theorem Block.masked_info (b : Block) : b.masked.info = b.info := rfl
@[simp] theorem Block.masked_setLane (b : Block) (c : Lane) (l : LaneState) :
    (b.setLane c l).masked = b.masked.setLane c l.masked := by
  cases c <;> rfl
@[simp] theorem Block.masked_closeWith (b : Block) (k : Cause) (v : Word32) :
    (b.closeWith k v).masked = b.masked.closeWith k v := rfl

theorem statusNothing_ne_ok : statusNothing ≠ statusOk := by decide
theorem statusFault_ne_ok : statusFault ≠ statusOk := by decide
theorem statusRefused_ne_ok : statusRefused ≠ statusOk := by decide
theorem statusFault_ne_nothing : statusFault ≠ statusNothing := by decide
theorem statusRefused_ne_nothing : statusRefused ≠ statusNothing := by decide
theorem statusRefused_ne_fault : statusRefused ≠ statusFault := by decide
theorem statusOk_ne_nothing : statusOk ≠ statusNothing := by decide

@[simp] theorem refuse_fst (r : Reason) (b : Block) : (refuse r b).1 = b := rfl
@[simp] theorem refuse_snd (r : Reason) (b : Block) : (refuse r b).2 = refusedResp r := rfl
@[simp] theorem raiseFault_fst (k : Cause) (v : Nat) (b : Block) :
    (raiseFault k v b).1 = b.closeWith k (BitVec.ofNat 32 v) := rfl
@[simp] theorem raiseFault_snd (k : Cause) (v : Nat) (b : Block) : (raiseFault k v b).2 = faultResp k := rfl

@[simp] theorem seedLane_mode (cfg : Cfg) (secret iv : List Byte) (l : LaneState) :
    (seedLane cfg secret iv l).mode = l.mode := rfl
@[simp] theorem seedLane_seeded (cfg : Cfg) (secret iv : List Byte) (l : LaneState) :
    (seedLane cfg secret iv l).seeded = true := rfl
@[simp] theorem seedLane_queue (cfg : Cfg) (secret iv : List Byte) (l : LaneState) :
    (seedLane cfg secret iv l).queue = [] := rfl

@[simp] theorem refill_mode (cfg : Cfg) (l : LaneState) : (refill cfg l).mode = l.mode := rfl
@[simp] theorem refill_seeded (cfg : Cfg) (l : LaneState) : (refill cfg l).seeded = l.seeded := rfl

@[simp] theorem resetBlock_lane (cfg : Cfg) (c : Lane) : (resetBlock cfg).lane c = resetLane cfg c := by
  cases c <;> rfl
@[simp] theorem resetBlock_fbuf (cfg : Cfg) : (resetBlock cfg).fbuf = [] := rfl
@[simp] theorem resetBlock_run (cfg : Cfg) : (resetBlock cfg).run = .active := rfl
@[simp] theorem resetBlock_cause (cfg : Cfg) : (resetBlock cfg).cause = 0#4 := rfl
@[simp] theorem resetBlock_info (cfg : Cfg) : (resetBlock cfg).info = 0#32 := rfl
@[simp] theorem resetLane_queue (cfg : Cfg) (c : Lane) : (resetLane cfg c).queue = [] := rfl
@[simp] theorem resetLane_seeded (cfg : Cfg) (c : Lane) : (resetLane cfg c).seeded = false := rfl
@[simp] theorem resetLane_mode (cfg : Cfg) (c : Lane) : (resetLane cfg c).mode = .xor := rfl

end Sys2Proof.Machine
end

