-- ==== Sys2Proof/Laws/Bytes.lean ====
section
/-! SUPPORT. LE32 and UnLE32 (00_scope.md R16), the number at the head of a stream (30_encoding.md R63), and the
small operands (R60). -/

namespace Sys2Proof

@[simp] theorem le32_length (v : Nat) : (le32 v).length = 4 := rfl

theorem unLE32_lt (b0 b1 b2 b3 : Byte) : unLE32 b0 b1 b2 b3 < 2 ^ 32 := by
  have h0 := b0.isLt
  have h1 := b1.isLt
  have h2 := b2.isLt
  have h3 := b3.isLt
  unfold unLE32
  omega

theorem le32_unLE32 (b0 b1 b2 b3 : Byte) : le32 (unLE32 b0 b1 b2 b3) = [b0, b1, b2, b3] := by
  have h0 := b0.isLt
  have h1 := b1.isLt
  have h2 := b2.isLt
  have h3 := b3.isLt
  simp only [le32, unLE32, List.cons.injEq, and_true, BitVec.toNat_eq, BitVec.toNat_ofNat]
  omega

/-- A number below 2^32 is read back from its four bytes, whatever follows them. -/
theorem readU32_le32_append (v : Nat) (hv : v < 2 ^ 32) (rest : List Byte) : readU32 (le32 v ++ rest) = some v := by
  simp only [le32, List.cons_append, List.nil_append, readU32, unLE32, BitVec.toNat_ofNat, Option.some.injEq]
  omega

/-- Nothing is read from fewer than four bytes, and only then. -/
theorem readU32_eq_none_iff (l : List Byte) : readU32 l = none ↔ l.length < 4 := by
  match l with
  | [] | [_] | [_, _] | [_, _, _] => simp [readU32]
  | _ :: _ :: _ :: _ :: _ => simp [readU32]

/-- What is read is the LE32 head of the stream. -/
theorem readU32_eq_some (l : List Byte) (n : Nat) (h : readU32 l = some n) :
    n < 2 ^ 32 ∧ l = le32 n ++ l.drop 4 ∧ 4 ≤ l.length := by
  match l, h with
  | b0 :: b1 :: b2 :: b3 :: rest, h =>
    obtain rfl : unLE32 b0 b1 b2 b3 = n := by simpa [readU32] using h
    exact ⟨unLE32_lt .., by rw [le32_unLE32]; rfl, by simp⟩

@[simp] theorem drop_four_le32_append (v : Nat) (rest : List Byte) : (le32 v ++ rest).drop 4 = rest := rfl

@[simp] theorem laneOf_laneBit (c : Lane) : laneOf (laneBit c) = c := by cases c <;> rfl

namespace Machine

theorem modeOperand_eq_none_iff (arg : Word32) : modeOperand arg = none ↔ arg ≠ 0#32 ∧ arg ≠ 1#32 := by
  unfold modeOperand
  split <;> [simp_all; (split <;> simp_all)]

theorem tagOperand_eq_none_iff (arg : Word32) : tagOperand arg = none ↔ arg ≠ 1#32 ∧ arg ≠ 2#32 := by
  unfold tagOperand
  split <;> [simp_all; (split <;> simp_all)]

/-- An accepted tag operand is the tag itself (R60). -/
theorem tagOperand_eq_some (arg : Word32) (tag : Nat) (h : tagOperand arg = some tag) :
    tag = arg.toNat ∧ (tag = 1 ∨ tag = 2) := by
  unfold tagOperand at h
  split at h
  · obtain rfl := Option.some.inj h; subst arg; exact ⟨rfl, .inl rfl⟩
  · split at h
    · obtain rfl := Option.some.inj h; subst arg; exact ⟨rfl, .inr rfl⟩
    · cases h

theorem causeOperand_eq_none_iff (arg : Word32) : causeOperand arg = none ↔ arg ≠ 3#32 ∧ arg ≠ 4#32 ∧ arg ≠ 5#32 := by
  unfold causeOperand
  split
  · simp_all
  · split
    · simp_all
    · split <;> simp_all

/-- An accepted CLOSE operand is the code of the cause it records (R110, R120). -/
theorem causeOperand_eq_some (arg : Word32) (k : Cause) (h : causeOperand arg = some k) :
    k.code = arg.setWidth 4 ∧ k.code ≠ 0#4 := by
  unfold causeOperand at h
  split at h
  · obtain rfl := Option.some.inj h; subst arg; decide
  · split at h
    · obtain rfl := Option.some.inj h; subst arg; decide
    · split at h
      · obtain rfl := Option.some.inj h; subst arg; decide
      · cases h

theorem Cause.code_ne_zero (k : Cause) : k.code ≠ 0#4 := by cases k <;> decide

theorem capAdmits_eq_true_iff (cfg : Cfg) (n : Nat) :
    capAdmits cfg n = true ↔ ∀ cap, cfg.framerCap = some cap → n ≤ cap := by
  unfold capAdmits
  cases h : cfg.framerCap <;> simp

theorem capAdmits_eq_false_iff (cfg : Cfg) (n : Nat) :
    capAdmits cfg n = false ↔ ∃ cap, cfg.framerCap = some cap ∧ cap < n := by
  unfold capAdmits
  cases h : cfg.framerCap <;> simp

/-- A buffer that fits still fits when it is shorter. -/
theorem capAdmits_mono (cfg : Cfg) (m n : Nat) (hmn : m ≤ n) (h : capAdmits cfg n = true) : capAdmits cfg m = true := by
  rw [capAdmits_eq_true_iff] at h ⊢
  exact fun cap hc => hmn.trans (h cap hc)

end Machine

end Sys2Proof
end

