-- ==== Sys2Proof/Laws/Keystream.lean ====
section
/-! SUPPORT. What the generator's operations can do, said once each (40_keystream.md, 41_cipher.md). -/

namespace Sys2Proof.Machine

/-- LFSR_NEXT leaves a number that fits the width (R20, R72). -/
theorem lfsrNext_lt (l : Lfsr) (s : Nat) : (lfsrNext l s).2 < 2 ^ l.width := by
  have hp : 0 < 2 ^ l.width := Nat.two_pow_pos _
  unfold lfsrNext
  dsimp only
  split
  · exact Nat.xor_lt_two_pow (Nat.mod_lt _ hp) (Nat.mod_lt _ hp)
  · exact Nat.mod_lt _ hp

theorem stepAll_length (ls : List Lfsr) (ss : List Nat) (h : ss.length = ls.length) :
    (stepAll ls ss).2.length = ls.length := by
  induction ls generalizing ss with
  | nil => simpa [stepAll] using h
  | cons l ls ih =>
    cases ss with
    | nil => simp at h
    | cons s ss => simp [stepAll, ih ss (by simpa using h)]

/-- One step of all LFSRs is one LFSR_NEXT of each, on its own register (R73 (d)). -/
theorem stepAll_regs (ls : List Lfsr) (ss : List Nat) (h : ss.length = ls.length) :
    (stepAll ls ss).2 = List.zipWith (fun l s => (lfsrNext l s).2) ls ss := by
  induction ls generalizing ss with
  | nil => simpa [stepAll] using h
  | cons l ls ih =>
    cases ss with
    | nil => simp at h
    | cons s ss => simp [stepAll, ih ss (by simpa using h)]

/-- After one step every register fits its width. -/
theorem stepAll_fit (ls : List Lfsr) (ss : List Nat) (h : ss.length = ls.length) :
    List.Forall₂ (fun (f : Lfsr) (r : Nat) => r < 2 ^ f.width) ls (stepAll ls ss).2 := by
  induction ls generalizing ss with
  | nil => simp at h; subst h; exact .nil
  | cons l ls ih =>
    cases ss with
    | nil => simp at h
    | cons s ss => exact .cons (lfsrNext_lt l s) (ih ss (by simpa using h))

/-- A refill keeps the number of registers, and registers that fit go on fitting. -/
theorem addrLoop_regs (cfg : Cfg) (n i addr : Nat) (regs : List Nat) (h : regs.length = cfg.lfsrs.length) :
    (addrLoop cfg n i addr regs).2.length = cfg.lfsrs.length ∧
      (List.Forall₂ (fun (f : Lfsr) (r : Nat) => r < 2 ^ f.width) cfg.lfsrs regs →
        List.Forall₂ (fun (f : Lfsr) (r : Nat) => r < 2 ^ f.width) cfg.lfsrs (addrLoop cfg n i addr regs).2) := by
  induction n generalizing i addr regs with
  | zero => exact ⟨h, id⟩
  | succ n ih =>
    have hl := stepAll_length cfg.lfsrs regs h
    have ih := ih (i + 1) (if cfg.addrMsbFirst then (addr <<< 1) + bitVal (stepAll cfg.lfsrs regs).1
      else addr + (bitVal (stepAll cfg.lfsrs regs).1 <<< i)) _ hl
    exact ⟨ih.1, fun _ => ih.2 (stepAll_fit cfg.lfsrs regs h)⟩

@[simp] theorem lowBits_length (n v : Nat) : (lowBits n v).length = n := by simp [lowBits]

/-- A refill queues exactly `M` bits (R74). -/
@[simp] theorem refill_queue_length (cfg : Cfg) (l : LaneState) : (refill cfg l).queue.length = cfg.m := by
  simp [refill]

/-- KBIT takes the head of the queue, which it refills first exactly when it is empty (R78). -/
theorem kbit_eq (cfg : Cfg) (hm : 1 ≤ cfg.m) (l : LaneState) :
    ∃ bit rest, (if l.queue = [] then refill cfg l else l).queue = bit :: rest ∧
      kbit cfg l = (bit, { (if l.queue = [] then refill cfg l else l) with queue := rest }) := by
  unfold kbit
  cases hq : l.queue with
  | nil =>
    have hl := refill_queue_length cfg l
    cases hr : (refill cfg l).queue with
    | nil => rw [hr] at hl; simp at hl; omega
    | cons bit rest => exact ⟨bit, rest, by simp [hr], by simp [popBit, hr]⟩
  | cons bit rest => exact ⟨bit, rest, by simp [hq], by simp [popBit, hq]⟩

@[simp] theorem popBit_mode (l : LaneState) : (popBit l).2.mode = l.mode := by
  unfold popBit; split <;> rfl
@[simp] theorem popBit_seeded (l : LaneState) : (popBit l).2.seeded = l.seeded := by
  unfold popBit; split <;> rfl
@[simp] theorem kbit_mode (cfg : Cfg) (l : LaneState) : (kbit cfg l).2.mode = l.mode := by
  unfold kbit; split <;> simp
@[simp] theorem kbit_seeded (cfg : Cfg) (l : LaneState) : (kbit cfg l).2.seeded = l.seeded := by
  unfold kbit; split <;> simp

/-- KBIT reads and writes registers and queue alone: MODE and SEEDED make no difference to it. -/
theorem kbit_with (cfg : Cfg) (l : LaneState) (seeded : Bool) (mode : Mode) :
    kbit cfg { l with seeded := seeded, mode := mode } =
      ((kbit cfg l).1, { (kbit cfg l).2 with seeded := seeded, mode := mode }) := by
  rcases l with ⟨regs, q, sd, md⟩
  cases q with
  | nil =>
    simp only [kbit, popBit, refill]
    split <;> rfl
  | cons b q => rfl

@[simp] theorem kbits_length (cfg : Cfg) (n : Nat) (l : LaneState) : (kbits cfg n l).1.length = n := by
  induction n generalizing l with
  | zero => rfl
  | succ n ih => simp [kbits, ih]

@[simp] theorem kbits_mode (cfg : Cfg) (n : Nat) (l : LaneState) : (kbits cfg n l).2.mode = l.mode := by
  induction n generalizing l with
  | zero => rfl
  | succ n ih => simp [kbits, ih]

@[simp] theorem kbits_seeded (cfg : Cfg) (n : Nat) (l : LaneState) : (kbits cfg n l).2.seeded = l.seeded := by
  induction n generalizing l with
  | zero => rfl
  | succ n ih => simp [kbits, ih]

/-- Taking `m + n` bits is taking `m` and then `n`. -/
theorem kbits_add (cfg : Cfg) (m n : Nat) (l : LaneState) :
    kbits cfg (m + n) l =
      ((kbits cfg m l).1 ++ (kbits cfg n (kbits cfg m l).2).1, (kbits cfg n (kbits cfg m l).2).2) := by
  induction m generalizing l with
  | zero => simp [kbits]
  | succ m ih => rw [Nat.succ_add]; simp [kbits, ih]

@[simp] theorem xorBuffer_length (cfg : Cfg) (buf : List Byte) (l : LaneState) :
    (xorBuffer cfg buf l).1.length = buf.length := by
  induction buf generalizing l with
  | nil => rfl
  | cons x xs ih => simp [xorBuffer, ih]

/-- The lane after PROCESS of a buffer is the lane after 8 KBITs for each of its bytes (R84, R85 (e)). -/
theorem xorBuffer_lane (cfg : Cfg) (buf : List Byte) (l : LaneState) :
    (xorBuffer cfg buf l).2 = (kbits cfg (8 * buf.length) l).2 := by
  induction buf generalizing l with
  | nil => rfl
  | cons x xs ih =>
    have : 8 * (x :: xs).length = 8 + 8 * xs.length := by simp; omega
    rw [this, kbits_add]
    simp [xorBuffer, ksByte, ih]

/-- PROCESS of two buffers joined is PROCESS of one and then the other (R85 (c)). -/
theorem xorBuffer_append (cfg : Cfg) (x y : List Byte) (l : LaneState) :
    xorBuffer cfg (x ++ y) l =
      ((xorBuffer cfg x l).1 ++ (xorBuffer cfg y (xorBuffer cfg x l).2).1, (xorBuffer cfg y (xorBuffer cfg x l).2).2) := by
  induction x generalizing l with
  | nil => rfl
  | cons b x ih => simp [xorBuffer, ih]

theorem splitSeed_length (ws : List Nat) (x : Nat) : (splitSeed ws x).length = ws.length := by
  induction ws generalizing x with
  | nil => rfl
  | cons w ws ih => simp [splitSeed, ih]

/-- SEED loads numbers that fit their widths (R75). -/
theorem splitSeed_fit (ls : List Lfsr) (x : Nat) :
    List.Forall₂ (fun (f : Lfsr) (r : Nat) => r < 2 ^ f.width) ls (splitSeed (ls.map Lfsr.width) x) := by
  induction ls generalizing x with
  | nil => exact .nil
  | cons l ls ih => exact .cons (Nat.mod_lt _ (Nat.two_pow_pos _)) (ih _)

/-- The digest loop only appends, whole digests (R76). -/
theorem digestLoop_length (cfg : Cfg) (hh : ∀ x, (cfg.hash x).length = cfg.hlen) (secret iv : List Byte)
    (demand fuel i : Nat) (acc : List Byte) :
    ∃ n, (digestLoop cfg secret iv demand fuel i acc).length = acc.length + n * cfg.hlen := by
  induction fuel generalizing i acc with
  | zero => exact ⟨0, by simp [digestLoop]⟩
  | succ fuel ih =>
    unfold digestLoop
    split
    · obtain ⟨n, hn⟩ := ih (i + 1) (acc ++ cfg.hash (secret ++ iv ++ cfg.demandEnc demand i (8 * acc.length)))
      exact ⟨n + 1, by rw [hn, List.length_append, hh, Nat.add_mul]; omega⟩
    · exact ⟨0, by simp⟩

end Sys2Proof.Machine
end

