-- ==== Sys2Proof/Laws/Ops.lean ====
section
/-! SUPPORT. What the shared operations can do, one lemma each; later proofs cite these and do not unfold them. -/

namespace Sys2Proof.Machine

theorem whenActive_active (b : Block) (f : Block × Resp) (h : b.run = .active) : whenActive b f = f := by
  simp [whenActive, h]

theorem whenActive_closed (b : Block) (f : Block × Resp) (h : b.run = .closed) : whenActive b f = refuse .closed b := by
  simp [whenActive, h]

/-- A command that is no RESET and no STATUS either finds the block CLOSED and is refused, or runs (R125). -/
theorem whenActive_cases (b : Block) (f : Block × Resp) :
    (b.run = .closed ∧ whenActive b f = refuse .closed b) ∨ (b.run = .active ∧ whenActive b f = f) := by
  cases h : b.run
  · exact .inr ⟨rfl, whenActive_active b f h⟩
  · exact .inl ⟨rfl, whenActive_closed b f h⟩

/-- The host goes on exactly after OK. -/
theorem issue_goesOn (op : BitVec 8) (r : Block × Resp) : (issue op r).goesOn = true ↔ r.2.status = statusOk := by
  simp [issue]

@[simp] theorem issue_block (op : BitVec 8) (r : Block × Resp) : (issue op r).block = r.1 := rfl
@[simp] theorem issue_answers (op : BitVec 8) (r : Block × Resp) : (issue op r).answers = [⟨op, r.2⟩] := rfl

/-- A script that the host stopped goes nowhere. -/
theorem Relay.andThen_stop (x : Relay) (f : Block → Relay) (h : x.goesOn = false) : x.andThen f = x := by
  simp [Relay.andThen, h]

/-- A script that the host goes on with: the next part runs on the block so far, its responses follow. -/
theorem Relay.andThen_go (x : Relay) (f : Block → Relay) (h : x.goesOn = true) :
    x.andThen f = ⟨(f x.block).block, x.answers ++ (f x.block).answers, (f x.block).goesOn⟩ := by
  simp [Relay.andThen, h]

/-- A property of blocks that both parts keep is kept by the whole. -/
theorem Relay.andThen_keeps (P : Block → Prop) (x : Relay) (f : Block → Relay) (hx : P x.block)
    (hf : ∀ b, P b → P (f b).block) : P (x.andThen f).block := by
  cases h : x.goesOn
  · rwa [Relay.andThen_stop x f h]
  · rw [Relay.andThen_go x f h]; exact hf _ hx

/-- Every instruction answers a next state (R151). -/
theorem exec_completes (i : Instr) (s : State) : ∃ t, exec i s = .next t := by
  cases i <;> exact ⟨_, rfl⟩

/-- What the host has yet to issue is not an instruction's to change. -/
theorem exec_pending (i : Instr) (s t : State) (h : exec i s = .next t) : t.pending = s.pending := by
  cases i <;> cases h <;> rfl

/-- A step with something issued runs the instruction of the oldest input. -/
theorem step_cons (s : State) (x : Input) (rest : List Input) (h : s.pending = x :: rest) :
    step s = exec (fetched x) { s with pending := rest } := by
  simp [step, h]

/-- A step with nothing issued changes nothing (R138). -/
theorem step_nil (s : State) (h : s.pending = []) : step s = .next s := by
  simp [step, h]

theorem fetched_of_decode (x : Input) (i : Instr) (h : decode x = .ok i) : fetched x = i := by
  simp [fetched, h]

theorem runAll_nil (s : State) : runAll [] s = some (s, []) := rfl

/-- A run goes through the first instruction's next state. -/
theorem runAll_cons (i : Instr) (is : List Instr) (s t u : State) (as : List Answer) (h : exec i s = .next t)
    (hs : runAll is t = some (u, as)) : runAll (i :: is) s = some (u, t.answers ++ as) := by
  simp [runAll, h, hs]

/-- Two runs one after the other are one run. -/
theorem runAll_append (is js : List Instr) (s t u : State) (as bs : List Answer) (hi : runAll is s = some (t, as))
    (hj : runAll js t = some (u, bs)) : runAll (is ++ js) s = some (u, as ++ bs) := by
  induction is generalizing s as with
  | nil =>
    obtain ⟨rfl, rfl⟩ : s = t ∧ as = [] := by simpa [runAll, eq_comm] using hi
    simpa using hj
  | cons i is ih =>
    obtain ⟨s1, h1⟩ := exec_completes i s
    simp only [runAll, h1] at hi
    split at hi
    · rename_i s2 as2 h2
      simp only [Option.some.injEq, Prod.mk.injEq] at hi
      obtain ⟨rfl, rfl⟩ := hi
      rw [List.cons_append, runAll_cons i _ s s1 u (as2 ++ bs) h1 (ih s1 as2 h2), List.append_assoc]
    · cases hi

end Sys2Proof.Machine
end

