-- ==== Sys2Proof/Laws/Decode.lean ====
section
/-! SUPPORT. What the decoder reads from each op code (30_encoding.md R59, R65), one lemma per row. -/

namespace Sys2Proof

section
variable (lane : BitVec 1) (arg : Word32) (a b : List Byte)

@[simp] theorem decodeCmd_reset : decodeCmd ⟨1#8, lane, arg, a, b⟩ = .reset := by simp [decodeCmd, inRow]
@[simp] theorem decodeCmd_status : decodeCmd ⟨2#8, lane, arg, a, b⟩ = .status := by simp [decodeCmd, inRow]
@[simp] theorem decodeCmd_setMode : decodeCmd ⟨3#8, lane, arg, a, b⟩ = .setMode (laneOf lane) arg := by
  simp [decodeCmd, inRow]
@[simp] theorem decodeCmd_seed : decodeCmd ⟨4#8, lane, arg, a, b⟩ = .seed (laneOf lane) a b := by
  simp [decodeCmd, inRow]
@[simp] theorem decodeCmd_nextBit : decodeCmd ⟨5#8, lane, arg, a, b⟩ = .nextBit (laneOf lane) := by
  simp [decodeCmd, inRow]
@[simp] theorem decodeCmd_process : decodeCmd ⟨6#8, lane, arg, a, b⟩ = .process (laneOf lane) a := by
  simp [decodeCmd, inRow]
@[simp] theorem decodeCmd_push : decodeCmd ⟨7#8, lane, arg, a, b⟩ = .push a := by simp [decodeCmd, inRow]
@[simp] theorem decodeCmd_extractOne : decodeCmd ⟨8#8, lane, arg, a, b⟩ = .extractOne := by simp [decodeCmd, inRow]
@[simp] theorem decodeCmd_make : decodeCmd ⟨9#8, lane, arg, a, b⟩ = .make a := by simp [decodeCmd, inRow]
@[simp] theorem decodeCmd_encode : decodeCmd ⟨10#8, lane, arg, a, b⟩ = .encode arg a := by simp [decodeCmd, inRow]
@[simp] theorem decodeCmd_decode : decodeCmd ⟨11#8, lane, arg, a, b⟩ = .decode a := by simp [decodeCmd, inRow]
@[simp] theorem decodeCmd_close : decodeCmd ⟨12#8, lane, arg, a, b⟩ = .close arg := by simp [decodeCmd, inRow]

/-- The instruction of a CMD record that has only an op code. -/
def decodeOp (op : BitVec 8) : Instr := decodeCmd (bareCmd op)

/-- The twelve op codes of R59. -/
theorem op_of_range (op : BitVec 8) (h0 : op.toNat ≠ 0) (h12 : op.toNat ≤ 12) :
    op = 1#8 ∨ op = 2#8 ∨ op = 3#8 ∨ op = 4#8 ∨ op = 5#8 ∨ op = 6#8 ∨ op = 7#8 ∨ op = 8#8 ∨ op = 9#8 ∨ op = 10#8 ∨
      op = 11#8 ∨ op = 12#8 := by
  simp only [BitVec.toNat_eq, BitVec.toNat_ofNat]
  omega

/-- The rows of R65: an instruction that is one of the seven reserved ones. -/
def isReserved : Instr → Bool
  | .reserved00 | .reserved0D | .reserved0E _ | .reserved10 _ | .reserved20 _ | .reserved40 _ | .reserved80 _ => true
  | _ => false

/-- On a reserved op code the other fields of the record do not matter. -/
theorem decodeCmd_reserved_fields (op : BitVec 8) (h : op.toNat = 0 ∨ 13 ≤ op.toNat) :
    decodeCmd ⟨op, lane, arg, a, b⟩ = decodeOp op := by
  have key : ∀ op : BitVec 8, (op.toNat = 0 ∨ 13 ≤ op.toNat) →
      inRow 0xFF#8 0x03#8 op = false ∧ inRow 0xFF#8 0x04#8 op = false ∧ inRow 0xFF#8 0x05#8 op = false ∧
      inRow 0xFF#8 0x06#8 op = false ∧ inRow 0xFF#8 0x07#8 op = false ∧ inRow 0xFF#8 0x09#8 op = false ∧
      inRow 0xFF#8 0x0A#8 op = false ∧ inRow 0xFF#8 0x0B#8 op = false ∧ inRow 0xFF#8 0x0C#8 op = false := by decide
  have hop := key op h
  simp only [decodeOp, decodeCmd, bareCmd, hop, Bool.false_eq_true, if_false]
  rfl

/-- A reserved op code decodes to the reserved row that has it, don't-care bits and all. -/
theorem decodeOp_reserved : ∀ op : BitVec 8, (op.toNat = 0 ∨ 13 ≤ op.toNat) →
    isReserved (decodeOp op) = true ∧ opCode (decodeOp op) = some op := by decide

end

end Sys2Proof

namespace Sys2Proof.Machine

/-- A reserved instruction answers ILLEGAL_COMMAND under its op code and changes nothing else (R65). -/
theorem exec_reserved (i : Instr) (op : BitVec 8) (s : State) (hi : isReserved i = true) (ho : opCode i = some op) :
    exec i s = .next (s.commit op (cmdReserved s.block)) := by
  cases i <;> simp only [isReserved, Bool.false_eq_true] at hi <;>
    (simp only [opCode, Option.some.injEq] at ho; subst ho; rfl)

end Sys2Proof.Machine
end

