-- ==== Sys2Proof/Laws/Commands.lean ====
section
/-! SUPPORT. One lemma per command that says everything it can do: on a CLOSED block the refusal of
60_exceptions.md R125, else the cases of its own rule. -/

namespace Sys2Proof.Machine

theorem cmdSeed_cases (cfg : Cfg) (c : Lane) (secret iv : List Byte) (b : Block) :
    (b.run = .closed ∧ cmdSeed cfg c secret iv b = refuse .closed b) ∨
    (b.run = .active ∧
      cmdSeed cfg c secret iv b = (b.setLane c (seedLane cfg secret iv (b.lane c)), okResp 0#32 [])) :=
  whenActive_cases b _

theorem cmdNextBit_cases (cfg : Cfg) (c : Lane) (b : Block) :
    (b.run = .closed ∧ cmdNextBit cfg c b = refuse .closed b) ∨
    (b.run = .active ∧ (b.lane c).seeded = false ∧ cmdNextBit cfg c b = refuse .notSeeded b) ∨
    (b.run = .active ∧ (b.lane c).seeded = true ∧
      cmdNextBit cfg c b = (b.setLane c (kbit cfg (b.lane c)).2,
        okResp (BitVec.ofNat 32 (bitVal (kbit cfg (b.lane c)).1)) [])) := by
  unfold cmdNextBit
  rcases whenActive_cases b _ with ⟨hr, h⟩ | ⟨hr, h⟩
  · exact .inl ⟨hr, h⟩
  · rw [h]
    cases hs : (b.lane c).seeded
    · exact .inr (.inl ⟨hr, rfl, rfl⟩)
    · exact .inr (.inr ⟨hr, rfl, rfl⟩)

theorem cmdSetMode_cases (c : Lane) (arg : Word32) (b : Block) :
    (b.run = .closed ∧ cmdSetMode c arg b = refuse .closed b) ∨
    (b.run = .active ∧ modeOperand arg = none ∧ cmdSetMode c arg b = refuse .badOperand b) ∨
    (∃ m, b.run = .active ∧ modeOperand arg = some m ∧
      cmdSetMode c arg b = (b.setLane c { b.lane c with mode := m }, okResp 0#32 [])) := by
  unfold cmdSetMode
  rcases whenActive_cases b _ with ⟨hr, h⟩ | ⟨hr, h⟩
  · exact .inl ⟨hr, h⟩
  · rw [h]
    cases hs : modeOperand arg with
    | none => exact .inr (.inl ⟨hr, rfl, rfl⟩)
    | some m => exact .inr (.inr ⟨m, hr, rfl, rfl⟩)

theorem cmdProcess_cases (cfg : Cfg) (c : Lane) (buf : List Byte) (b : Block) :
    (b.run = .closed ∧ cmdProcess cfg c buf b = refuse .closed b) ∨
    (b.run = .active ∧ (b.lane c).mode = .identity ∧ cmdProcess cfg c buf b = (b, okResp 0#32 buf)) ∨
    (b.run = .active ∧ (b.lane c).mode = .xor ∧ (b.lane c).seeded = false ∧
      cmdProcess cfg c buf b = refuse .notSeeded b) ∨
    (b.run = .active ∧ (b.lane c).mode = .xor ∧ (b.lane c).seeded = true ∧
      cmdProcess cfg c buf b = (b.setLane c (xorBuffer cfg buf (b.lane c)).2,
        okResp 0#32 (xorBuffer cfg buf (b.lane c)).1)) := by
  unfold cmdProcess
  rcases whenActive_cases b _ with ⟨hr, h⟩ | ⟨hr, h⟩
  · exact .inl ⟨hr, h⟩
  · rw [h]
    cases hm : (b.lane c).mode
    · cases hs : (b.lane c).seeded
      · exact .inr (.inr (.inl ⟨hr, rfl, rfl, rfl⟩))
      · exact .inr (.inr (.inr ⟨hr, rfl, rfl, rfl⟩))
    · exact .inr (.inl ⟨hr, rfl, rfl⟩)

theorem cmdPush_cases (cfg : Cfg) (bytes : List Byte) (b : Block) :
    (b.run = .closed ∧ cmdPush cfg bytes b = refuse .closed b) ∨
    (b.run = .active ∧ capAdmits cfg (b.fbuf.length + bytes.length) = false ∧
      cmdPush cfg bytes b = refuse .framerFull b) ∨
    (b.run = .active ∧ capAdmits cfg (b.fbuf.length + bytes.length) = true ∧
      cmdPush cfg bytes b = ({ b with fbuf := b.fbuf ++ bytes }, okResp 0#32 [])) := by
  unfold cmdPush
  rcases whenActive_cases b _ with ⟨hr, h⟩ | ⟨hr, h⟩
  · exact .inl ⟨hr, h⟩
  · rw [h]
    cases hs : capAdmits cfg (b.fbuf.length + bytes.length)
    · exact .inr (.inl ⟨hr, rfl, rfl⟩)
    · exact .inr (.inr ⟨hr, rfl, rfl⟩)

theorem cmdExtractOne_cases (cfg : Cfg) (b : Block) :
    (b.run = .closed ∧ cmdExtractOne cfg b = refuse .closed b) ∨
    (b.run = .active ∧ readU32 b.fbuf = none ∧ cmdExtractOne cfg b = (b, nothingResp)) ∨
    (∃ len, b.run = .active ∧ readU32 b.fbuf = some len ∧ capAdmits cfg (4 + len) = false ∧
      cmdExtractOne cfg b = raiseFault .framingFault len b) ∨
    (∃ len, b.run = .active ∧ readU32 b.fbuf = some len ∧ capAdmits cfg (4 + len) = true ∧
      b.fbuf.length < 4 + len ∧ cmdExtractOne cfg b = (b, nothingResp)) ∨
    (∃ len, b.run = .active ∧ readU32 b.fbuf = some len ∧ capAdmits cfg (4 + len) = true ∧
      4 + len ≤ b.fbuf.length ∧
      cmdExtractOne cfg b = ({ b with fbuf := b.fbuf.drop (4 + len) },
        okResp (BitVec.ofNat 32 len) ((b.fbuf.drop 4).take len))) := by
  unfold cmdExtractOne
  rcases whenActive_cases b _ with ⟨hr, h⟩ | ⟨hr, h⟩
  · exact .inl ⟨hr, h⟩
  · rw [h]
    cases hs : readU32 b.fbuf with
    | none => exact .inr (.inl ⟨hr, rfl, rfl⟩)
    | some len =>
      cases hc : capAdmits cfg (4 + len) with
      | false => exact .inr (.inr (.inl ⟨len, hr, rfl, hc, by simp [hc]⟩))
      | true =>
        by_cases hl : b.fbuf.length < 4 + len
        · exact .inr (.inr (.inr (.inl ⟨len, hr, rfl, hc, hl, by simp [hc, hl]⟩)))
        · exact .inr (.inr (.inr (.inr ⟨len, hr, rfl, hc, Nat.le_of_not_lt hl, by simp [hc, hl]⟩)))

theorem cmdMake_cases (payload : List Byte) (b : Block) :
    (b.run = .closed ∧ cmdMake payload b = refuse .closed b) ∨
    (b.run = .active ∧ 2 ^ 32 ≤ payload.length ∧ cmdMake payload b = refuse .tooLong b) ∨
    (b.run = .active ∧ payload.length < 2 ^ 32 ∧
      cmdMake payload b = (b, okResp 0#32 (le32 payload.length ++ payload))) := by
  unfold cmdMake
  rcases whenActive_cases b _ with ⟨hr, h⟩ | ⟨hr, h⟩
  · exact .inl ⟨hr, h⟩
  · rw [h]
    by_cases hs : 2 ^ 32 ≤ payload.length
    · exact .inr (.inl ⟨hr, hs, if_pos hs⟩)
    · exact .inr (.inr ⟨hr, Nat.lt_of_not_le hs, if_neg hs⟩)

theorem cmdEncode_cases (arg : Word32) (body : List Byte) (b : Block) :
    (b.run = .closed ∧ cmdEncode arg body b = refuse .closed b) ∨
    (b.run = .active ∧ tagOperand arg = none ∧ cmdEncode arg body b = refuse .badOperand b) ∨
    (∃ tag, b.run = .active ∧ tagOperand arg = some tag ∧
      cmdEncode arg body b = (b, okResp 0#32 (le32 tag ++ body))) := by
  unfold cmdEncode
  rcases whenActive_cases b _ with ⟨hr, h⟩ | ⟨hr, h⟩
  · exact .inl ⟨hr, h⟩
  · rw [h]
    cases hs : tagOperand arg with
    | none => exact .inr (.inl ⟨hr, rfl, rfl⟩)
    | some tag => exact .inr (.inr ⟨tag, hr, rfl, rfl⟩)

theorem cmdDecode_cases (msg : List Byte) (b : Block) :
    (b.run = .closed ∧ cmdDecode msg b = refuse .closed b) ∨
    (b.run = .active ∧ readU32 msg = none ∧ cmdDecode msg b = raiseFault .framingFault msg.length b) ∨
    (∃ tag, b.run = .active ∧ readU32 msg = some tag ∧ (tag = 1 ∨ tag = 2) ∧
      cmdDecode msg b = (b, okResp (BitVec.ofNat 32 tag) (msg.drop 4))) ∨
    (∃ tag, b.run = .active ∧ readU32 msg = some tag ∧ tag ≠ 1 ∧ tag ≠ 2 ∧
      cmdDecode msg b = raiseFault .unknownMessageType tag b) := by
  unfold cmdDecode
  rcases whenActive_cases b _ with ⟨hr, h⟩ | ⟨hr, h⟩
  · exact .inl ⟨hr, h⟩
  · rw [h]
    cases hs : readU32 msg with
    | none => exact .inr (.inl ⟨hr, rfl, rfl⟩)
    | some tag =>
      by_cases ht : tag = 1 ∨ tag = 2
      · exact .inr (.inr (.inl ⟨tag, hr, rfl, ht, by simp [tagReseed, tagData, ht]⟩))
      · obtain ⟨h1, h2⟩ := not_or.mp ht
        exact .inr (.inr (.inr ⟨tag, hr, rfl, h1, h2, by simp [tagReseed, tagData, h1, h2]⟩))

theorem cmdClose_cases (arg : Word32) (b : Block) :
    (b.run = .closed ∧ cmdClose arg b = refuse .closed b) ∨
    (b.run = .active ∧ causeOperand arg = none ∧ cmdClose arg b = refuse .badOperand b) ∨
    (∃ k, b.run = .active ∧ causeOperand arg = some k ∧ cmdClose arg b = (b.closeWith k 0#32, okResp 0#32 [])) := by
  unfold cmdClose
  rcases whenActive_cases b _ with ⟨hr, h⟩ | ⟨hr, h⟩
  · exact .inl ⟨hr, h⟩
  · rw [h]
    cases hs : causeOperand arg with
    | none => exact .inr (.inl ⟨hr, rfl, rfl⟩)
    | some k => exact .inr (.inr ⟨k, hr, rfl, rfl⟩)

end Sys2Proof.Machine
end

