-- ==== Sys2Proof/Laws/Relay.lean ====
section
/-! SUPPORT. What the host's scripts can do (44_system_and_macros.md R112 to R117): what each of their commands answers,
what each part keeps, and the equations of the drain loop, so that no proof unfolds it. -/

namespace Sys2Proof.Machine

/-- PROCESS on a lane that accepts it answers what `processLane` gives (R84, R86). -/
theorem cmdProcess_of_accepts (cfg : Cfg) (c : Lane) (buf : List Byte) (b : Block) (hr : b.run = .active)
    (ha : (b.lane c).accepts) :
    cmdProcess cfg c buf b =
      (b.setLane c (processLane cfg buf (b.lane c)).2, okResp 0#32 (processLane cfg buf (b.lane c)).1) := by
  rcases cmdProcess_cases cfg c buf b with ⟨h, _⟩ | ⟨_, hm, e⟩ | ⟨_, hm, hs, _⟩ | ⟨_, hm, _, e⟩
  · simp [hr] at h
  · simp [e, processLane, hm]
  · rcases ha with h | h <;> simp_all
  · simp [e, processLane, hm]

@[simp] theorem processLane_length (cfg : Cfg) (buf : List Byte) (l : LaneState) :
    (processLane cfg buf l).1.length = buf.length := by
  unfold processLane; split <;> simp

/-- A lane that accepts PROCESS goes on accepting it. -/
theorem processLane_accepts (cfg : Cfg) (buf : List Byte) (l : LaneState) (h : l.accepts) :
    (processLane cfg buf l).2.accepts := by
  unfold processLane
  split
  · exact h
  · rename_i hm
    rcases h with h | h
    · rw [hm] at h; cases h
    · exact .inr (by rw [xorBuffer_lane, kbits_seeded]; exact h)

/-- DECODE, PROCESS and CLOSE leave the framer buffer alone (R35, R110). -/
@[simp] theorem cmdDecode_fbuf (msg : List Byte) (b : Block) : (cmdDecode msg b).1.fbuf = b.fbuf := by
  rcases cmdDecode_cases msg b with ⟨_, e⟩ | ⟨_, _, e⟩ | ⟨_, _, _, _, e⟩ | ⟨_, _, _, _, _, e⟩ <;> rw [e] <;> rfl

@[simp] theorem cmdProcess_fbuf (cfg : Cfg) (c : Lane) (buf : List Byte) (b : Block) :
    (cmdProcess cfg c buf b).1.fbuf = b.fbuf := by
  rcases cmdProcess_cases cfg c buf b with ⟨_, e⟩ | ⟨_, _, e⟩ | ⟨_, _, _, e⟩ | ⟨_, _, _, e⟩ <;> rw [e] <;> simp

@[simp] theorem cmdClose_fbuf (arg : Word32) (b : Block) : (cmdClose arg b).1.fbuf = b.fbuf := by
  rcases cmdClose_cases arg b with ⟨_, e⟩ | ⟨_, _, e⟩ | ⟨_, _, _, e⟩ <;> rw [e] <;> rfl

/-- MAKE and ENCODE change nothing (R97, R101). -/
@[simp] theorem cmdMake_block (payload : List Byte) (b : Block) : (cmdMake payload b).1 = b := by
  rcases cmdMake_cases payload b with ⟨_, e⟩ | ⟨_, _, e⟩ | ⟨_, _, e⟩ <;> rw [e] <;> rfl

@[simp] theorem cmdEncode_block (arg : Word32) (body : List Byte) (b : Block) : (cmdEncode arg body b).1 = b := by
  rcases cmdEncode_cases arg body b with ⟨_, e⟩ | ⟨_, _, e⟩ | ⟨_, _, _, e⟩ <;> rw [e] <;> rfl

section Keeps

variable (P : Block → Prop) (cfg : Cfg)
  (hdecode : ∀ msg b, P b → P (cmdDecode msg b).1) (hprocess : ∀ c buf b, P b → P (cmdProcess cfg c buf b).1)
  (hclose : ∀ arg b, P b → P (cmdClose arg b).1) (hpush : ∀ bytes b, P b → P (cmdPush cfg bytes b).1)
  (hextract : ∀ b, P b → P (cmdExtractOne cfg b).1)

include hpush hextract in
/-- What PUSH and EXTRACT_ONE keep, the FRAME row keeps. -/
theorem relayFrame_keeps (payload : List Byte) (b : Block) (h : P b) : P (relayFrame cfg payload b).block :=
  Relay.andThen_keeps P _ _ (hpush _ _ h) fun _ h1 => hextract _ h1

include hprocess hclose in
/-- What PROCESS and CLOSE keep, TX_DATA keeps. -/
theorem relayTx_keeps (bytes : List Byte) (b : Block) (h : P b) : P (relayTx cfg bytes b).block := by
  unfold relayTx
  split
  · exact hclose _ _ h
  · exact Relay.andThen_keeps P _ _ (hprocess _ _ _ h) fun _ h1 =>
      Relay.andThen_keeps P _ _ (by simpa using h1) fun _ h2 => by simpa using h2

include hdecode hprocess hclose in
/-- What DECODE, PROCESS and CLOSE keep, the handling of one message keeps. -/
theorem relayMessage_keeps (payload : List Byte) (b : Block) (h : P b) : P (relayMessage cfg payload b).block := by
  refine Relay.andThen_keeps P _ _ (hdecode _ _ h) fun b1 h1 => ?_
  split
  · exact hprocess _ _ _ h1
  · exact hclose _ _ h1

include hdecode hprocess hclose hextract in
/-- What the commands of the drain loop keep, the loop keeps. -/
theorem relayDrain_keeps (fuel : Nat) (b : Block) (h : P b) : P (relayDrain cfg fuel b).block := by
  induction fuel generalizing b with
  | zero => exact h
  | succ fuel ih =>
    simp only [relayDrain]
    split
    · exact hextract _ h
    · exact Relay.andThen_keeps P _ _ (hextract _ h) fun _ h1 =>
        Relay.andThen_keeps P _ _ (relayMessage_keeps P cfg hdecode hprocess hclose _ _ h1) fun _ h2 => ih _ h2

include hdecode hprocess hclose hpush hextract in
/-- What all its commands keep, the feeding loop keeps. -/
theorem relayFeed_keeps (fuel : Nat) (bytes : List Byte) (b : Block) (h : P b) :
    P (relayFeed cfg fuel bytes b).block := by
  have hdrain := fun b h => relayDrain_keeps P cfg hdecode hprocess hclose hextract (b.fbuf.length + 1) b h
  induction fuel generalizing b bytes with
  | zero => exact h
  | succ fuel ih =>
    simp only [relayFeed]
    split
    · exact Relay.andThen_keeps P _ _ h fun _ h1 => Relay.andThen_keeps P _ _ (hpush _ _ h1) fun _ h2 =>
        Relay.andThen_keeps P _ _ (hdrain _ h2) fun _ h3 => ih _ _ h3
    · exact Relay.andThen_keeps P _ _ (hpush _ _ h) fun _ h1 => hdrain _ h1

include hdecode hprocess hclose hpush hextract in
/-- What all its commands keep, RX_DRAIN keeps. -/
theorem relayRx_keeps (bytes : List Byte) (b : Block) (h : P b) : P (relayRx cfg bytes b).block :=
  relayFeed_keeps P cfg hdecode hprocess hclose hpush hextract _ bytes b h

end Keeps

/-- The handling of a message leaves the framer buffer alone. -/
@[simp] theorem relayMessage_fbuf (cfg : Cfg) (payload : List Byte) (b : Block) :
    (relayMessage cfg payload b).block.fbuf = b.fbuf :=
  relayMessage_keeps (fun x => x.fbuf = b.fbuf) cfg (fun m x h => (cmdDecode_fbuf m x).trans h)
    (fun c m x h => (cmdProcess_fbuf cfg c m x).trans h) (fun a x h => (cmdClose_fbuf a x).trans h) payload b rfl

/-- EXTRACT_ONE of a whole frame that fits the capacity (R94). -/
theorem cmdExtractOne_frame (cfg : Cfg) (payload more : List Byte) (b : Block) (hr : b.run = .active)
    (hl : payload.length < 2 ^ 32) (hc : capAdmits cfg (4 + payload.length) = true)
    (hb : b.fbuf = frameBytes payload ++ more) :
    cmdExtractOne cfg b = ({ b with fbuf := more }, okResp (BitVec.ofNat 32 payload.length) payload) := by
  have hread : readU32 b.fbuf = some payload.length := by
    rw [hb, frameBytes, List.append_assoc]; exact readU32_le32_append _ hl _
  have hd : b.fbuf.drop 4 = payload ++ more := by
    rw [hb, frameBytes, List.append_assoc]; exact drop_four_le32_append _ _
  have hlen : b.fbuf.length = 4 + payload.length + more.length := by
    rw [hb]; simp [frameBytes, Nat.add_assoc]
  have hd4 : b.fbuf.drop (4 + payload.length) = more := by
    rw [← List.drop_drop, hd, List.drop_left]
  have hn : ¬ b.fbuf.length < 4 + payload.length := by omega
  simp [cmdExtractOne, whenActive, hr, hread, hc, hn, hd, hd4]

/-- The drain loop on a buffer that begins with a whole frame that fits: that message, and then the rest (R114,
R116 (a)). -/
theorem relayDrain_frame (cfg : Cfg) (fuel : Nat) (payload more : List Byte) (b : Block) (hr : b.run = .active)
    (hl : payload.length < 2 ^ 32) (hc : capAdmits cfg (4 + payload.length) = true)
    (hb : b.fbuf = frameBytes payload ++ more) :
    relayDrain cfg (fuel + 1) b =
      (Relay.mk { b with fbuf := more } [⟨opExtractOne, okResp (BitVec.ofNat 32 payload.length) payload⟩] true).andThen
        fun b1 => (relayMessage cfg payload b1).andThen fun b2 => relayDrain cfg fuel b2 := by
  simp only [relayDrain, cmdExtractOne_frame cfg payload more b hr hl hc hb]
  simp only [okResp_status, okResp_out]
  rfl

/-- The drain loop ends when EXTRACT_ONE answers NOTHING (R114). -/
theorem relayDrain_nothing (cfg : Cfg) (fuel : Nat) (b : Block) (h : cmdExtractOne cfg b = (b, nothingResp)) :
    relayDrain cfg (fuel + 1) b = ⟨b, [⟨opExtractOne, nothingResp⟩], true⟩ := by
  simp [relayDrain, h]

/-- A Data message's body goes through PROCESS on lane RECV (R115). -/
theorem relayMessage_data (cfg : Cfg) (body : List Byte) (b : Block) (hr : b.run = .active) (ha : b.recv.accepts) :
    relayMessage cfg (le32 2 ++ body) b =
      ⟨{ b with recv := (processLane cfg body b.recv).2 },
        [⟨opDecode, okResp 2#32 body⟩, ⟨opProcess, okResp 0#32 (processLane cfg body b.recv).1⟩], true⟩ := by
  have hd : cmdDecode (le32 2 ++ body) b = (b, okResp 2#32 body) := by
    simp [cmdDecode, whenActive, hr, readU32_le32_append 2 (by decide) body, tagReseed, tagData]
  have hp := cmdProcess_of_accepts cfg .recv body b hr ha
  simp [relayMessage, Relay.andThen, issue, hd, hp, Block.setLane]

/-- A PUSH that fits is followed by one drain (R114). -/
theorem relayRx_fits (cfg : Cfg) (bytes : List Byte) (b : Block) (hr : b.run = .active)
    (hc : capAdmits cfg (b.fbuf.length + bytes.length) = true) :
    relayRx cfg bytes b =
      (Relay.mk { b with fbuf := b.fbuf ++ bytes } [⟨opPush, okResp 0#32 []⟩] true).andThen (drainAll cfg) := by
  have hp : cmdPush cfg bytes b = ({ b with fbuf := b.fbuf ++ bytes }, okResp 0#32 []) := by
    simp [cmdPush, whenActive, hr, hc]
  have hn : okResp 0#32 [] ≠ refusedResp .framerFull := by decide
  simp only [relayRx, relayFeed, hp, if_neg hn]
  rfl

end Sys2Proof.Machine
end

