-- ==== Sys2Proof/Laws/PerInstr.lean ====
section
/-! SUPPORT. The statement made of every instruction, one lemma per constructor: what the encoder writes into a CMD
record is the row's op code (30_encoding.md R59) and nothing into the fields the row does not use (R66). -/

namespace Sys2Proof.Laws.EncodedOpCode

open Sys2Proof.Machine

/-- If an instruction is encoded as a CMD record, the record has its row's op code and its unused fields are zero or
empty. -/
def Statement (i : Instr) : Prop := ∀ c, encode i = .cmd c → opCode i = some c.op ∧ usedFields c = c

theorem reset : Statement .reset := by rintro c ⟨⟩; exact ⟨rfl, by decide⟩
theorem status : Statement .status := by rintro c ⟨⟩; exact ⟨rfl, by decide⟩
theorem setMode (lane : Lane) (arg : Word32) : Statement (.setMode lane arg) := by rintro c ⟨⟩; exact ⟨rfl, rfl⟩
theorem seed (lane : Lane) (secret iv : List Byte) : Statement (.seed lane secret iv) := by
  rintro c ⟨⟩; exact ⟨rfl, rfl⟩
theorem nextBit (lane : Lane) : Statement (.nextBit lane) := by rintro c ⟨⟩; exact ⟨rfl, rfl⟩
theorem process (lane : Lane) (buf : List Byte) : Statement (.process lane buf) := by rintro c ⟨⟩; exact ⟨rfl, rfl⟩
theorem push (bytes : List Byte) : Statement (.push bytes) := by rintro c ⟨⟩; exact ⟨rfl, rfl⟩
theorem extractOne : Statement .extractOne := by rintro c ⟨⟩; exact ⟨rfl, by decide⟩
theorem make (payload : List Byte) : Statement (.make payload) := by rintro c ⟨⟩; exact ⟨rfl, rfl⟩
theorem encode (arg : Word32) (body : List Byte) : Statement (.encode arg body) := by rintro c ⟨⟩; exact ⟨rfl, rfl⟩
theorem decode (msg : List Byte) : Statement (.decode msg) := by rintro c ⟨⟩; exact ⟨rfl, rfl⟩
theorem close (arg : Word32) : Statement (.close arg) := by rintro c ⟨⟩; exact ⟨rfl, rfl⟩
theorem reserved00 : Statement .reserved00 := by rintro c ⟨⟩; exact ⟨rfl, by decide⟩
theorem reserved0D : Statement .reserved0D := by rintro c ⟨⟩; exact ⟨rfl, by decide⟩

/-- A record with an op code alone, if that is none of the op codes of R59, uses no field. -/
theorem usedFields_bareCmd (op : BitVec 8) : usedFields (bareCmd op) = bareCmd op := by
  unfold usedFields bareCmd
  split_ifs <;> rfl

theorem reserved0E (r : BitVec 1) : Statement (.reserved0E r) := by
  rintro c ⟨⟩; exact ⟨rfl, usedFields_bareCmd _⟩
theorem reserved10 (r : BitVec 4) : Statement (.reserved10 r) := by
  rintro c ⟨⟩; exact ⟨rfl, usedFields_bareCmd _⟩
theorem reserved20 (r : BitVec 5) : Statement (.reserved20 r) := by
  rintro c ⟨⟩; exact ⟨rfl, usedFields_bareCmd _⟩
theorem reserved40 (r : BitVec 6) : Statement (.reserved40 r) := by
  rintro c ⟨⟩; exact ⟨rfl, usedFields_bareCmd _⟩
theorem reserved80 (r : BitVec 7) : Statement (.reserved80 r) := by
  rintro c ⟨⟩; exact ⟨rfl, usedFields_bareCmd _⟩
theorem msgReseed (body : List Byte) : Statement (.msgReseed body) := by rintro c ⟨⟩
theorem msgData (body : List Byte) : Statement (.msgData body) := by rintro c ⟨⟩
theorem msgUnrecognised (tag : Word32) (body : List Byte) : Statement (.msgUnrecognised tag body) := by rintro c ⟨⟩
theorem frame (payload : List Byte) : Statement (.frame payload) := by rintro c ⟨⟩
theorem txData (bytes : List Byte) : Statement (.txData bytes) := by rintro c ⟨⟩
theorem rxDrain (bytes : List Byte) : Statement (.rxDrain bytes) := by rintro c ⟨⟩

end Sys2Proof.Laws.EncodedOpCode
end

