-- ==== Sys2Proof/Certificates/Slice0/Obligations.lean ====
section
/-! DEFINITION. The statements for the provers. Each docstring names the rule of spec/ it formalises. -/

open Sys2Proof Sys2Proof.Machine

/-! ## Encoding -/

/-- Decode and encode agree on every well-formed instruction (R57, R59, R54, R55, R64; the kinds of input are the
model's, log 3). -/
def Obligations.DecodeOfEncodeIsTheInstruction : Prop :=
  ∀ i : Instr, i.wellFormed = true → decode (encode i) = .ok i

/-- Words written out from R59, R55 and R54 decode to the instructions they stand for. -/
def Obligations.SampleWordsDecodeAsTheSpecSays : Prop :=
  decode (.cmd ⟨0x03#8, 1#1, 1#32, [], []⟩) = .ok (.setMode .recv 1#32) ∧
  decode (.cmd ⟨0x04#8, 0#1, 0#32, [0x61#8, 0x62#8, 0x63#8], [0x00#8]⟩) =
    .ok (.seed .send [0x61#8, 0x62#8, 0x63#8] [0x00#8]) ∧
  decode (.cmd ⟨0x0C#8, 0#1, 4#32, [], []⟩) = .ok (.close 4#32) ∧
  decode (.cmd ⟨0x2B#8, 0#1, 0#32, [], []⟩) = .ok (.reserved20 0b01011#5) ∧
  decode (.msg [0x02#8, 0x00#8, 0x00#8, 0x00#8, 0xB5#8, 0xB3#8]) = .ok (.msgData [0xB5#8, 0xB3#8]) ∧
  decode (.msg [0x02#8, 0x01#8, 0x00#8, 0x00#8]) = .ok (.msgUnrecognised 258#32 []) ∧
  decode (.frame [0x02#8, 0x00#8, 0x00#8, 0x00#8, 0xAB#8, 0xCD#8]) = .ok (.frame [0xAB#8, 0xCD#8])

/-- R66: CMD fields a command does not use make no difference to it, and `SW[31:9]` reads as zero. -/
def Obligations.UnusedCmdFieldsAreIgnored : Prop :=
  (∀ (c : Cmd) (s : State) (rest : List Input),
    step { s with pending := .cmd c :: rest } = step { s with pending := .cmd (usedFields c) :: rest }) ∧
  ∀ b : Block, (statusWord b).extractLsb' 9 23 = 0#23

/-! ## The machine -/

/-- A step runs the decoded instruction of the oldest pending input, which leaves the queue (issue order, R49; the
queue is the model's, log 3). -/
def Obligations.StepRunsTheDecodedInstruction : Prop :=
  ∀ (s : State) (x : Input) (rest : List Input) (i : Instr), s.pending = x :: rest → decode x = .ok i →
    step s = exec i { s with pending := rest }

/-- The spec's inference R138 (from R130): between commands the block holds its state and does nothing. That a step
with nothing issued changes nothing is the model's choice (log 5). -/
def Obligations.IdleBlockHoldsItsState : Prop := ∀ s : State, s.pending = [] → step s = .next s

/-- The spec's inference R151: every command terminates; no step ends in a stop. -/
def Obligations.EveryStepCompletes : Prop := ∀ s : State, completes (step s)

/-- Every step keeps the invariants of R36, which the spec infers from R34, R72, R74, R75, R93 and R126. -/
def Obligations.EveryStepKeepsTheInvariant : Prop := ∀ s t : State, s.Inv → step s = .next t → t.Inv

/-- The state after reset meets the invariants of R36 (the spec's inference). What the registers hold is the model's
choice (log 2); the statement holds for every value. -/
def Obligations.ResetStateMeetsTheInvariant : Prop := State.reset.Inv

/-- R119, R61, R124, R126, R127: a command is answered by exactly one RESP for its op code, and ends in OK, or
in NOTHING with no change (EXTRACT_ONE alone), or in FAULT with STATE, CAUSE and INFO alone changed (EXTRACT_ONE and
DECODE alone) and the cause as `info`, or in REFUSED with no change at all. -/
def Obligations.EveryCommandEndsInOneOfFourWays : Prop :=
  ∀ (s : State) (c : Cmd) (rest : List Input), s.pending = .cmd c :: rest →
    ∃ t r, step s = .next t ∧ t.pending = rest ∧ t.answers = [⟨c.op, r⟩] ∧
      (r.status = 0#8 ∨
       (r = ⟨1#8, 0#32, []⟩ ∧ c.op = 0x08#8 ∧ t.block = s.block) ∨
       (∃ k v, r = ⟨2#8, t.block.cause.setWidth 32, []⟩ ∧ (c.op = 0x08#8 ∨ c.op = 0x0B#8) ∧
         (k = 1#4 ∨ k = 2#4) ∧ t.block = { s.block with run := .closed, cause := k, info := v }) ∨
       (r.status = 3#8 ∧ r.out = [] ∧ 1 ≤ r.info.toNat ∧ r.info.toNat ≤ 6 ∧ t.block = s.block))

/-- R125: while STATE is CLOSED every command except RESET and STATUS is refused with reason CLOSED, and the block
keeps all it holds. (Reserved op codes are no commands: their statement is the next one.) -/
def Obligations.ClosedBlockRefusesCommands : Prop :=
  ∀ (s : State) (c : Cmd) (rest : List Input), s.block.run = .closed → s.pending = .cmd c :: rest →
    3 ≤ c.op.toNat → c.op.toNat ≤ 12 →
    step s = .next { block := s.block, pending := rest, answers := [⟨c.op, ⟨3#8, 2#32, []⟩⟩] }

/-- R65 and the order of tests of R124: op codes 0x00 and 0x0D .. 0xFF are refused ILLEGAL_COMMAND with no state
change, on a CLOSED block too. -/
def Obligations.ReservedOpCodesAreRefused : Prop :=
  ∀ (s : State) (c : Cmd) (rest : List Input), s.pending = .cmd c :: rest →
    (c.op.toNat = 0 ∨ 13 ≤ c.op.toNat) →
    step s = .next { block := s.block, pending := rest, answers := [⟨c.op, ⟨3#8, 1#32, []⟩⟩] }

/-- Each of the seven reserved rows (R65) answers REFUSED / ILLEGAL_COMMAND under its own op code. -/
def Obligations.ReservedRowsAnswerIllegalCommand : Prop :=
  ∀ s : State,
    exec .reserved00 s = .next (s.finish s.block [⟨0x00#8, ⟨3#8, 1#32, []⟩⟩]) ∧
    exec .reserved0D s = .next (s.finish s.block [⟨0x0D#8, ⟨3#8, 1#32, []⟩⟩]) ∧
    (∀ r, exec (.reserved0E r) s = .next (s.finish s.block [⟨0b0000111#7 ++ r, ⟨3#8, 1#32, []⟩⟩])) ∧
    (∀ r, exec (.reserved10 r) s = .next (s.finish s.block [⟨0b0001#4 ++ r, ⟨3#8, 1#32, []⟩⟩])) ∧
    (∀ r, exec (.reserved20 r) s = .next (s.finish s.block [⟨0b001#3 ++ r, ⟨3#8, 1#32, []⟩⟩])) ∧
    (∀ r, exec (.reserved40 r) s = .next (s.finish s.block [⟨0b01#2 ++ r, ⟨3#8, 1#32, []⟩⟩])) ∧
    (∀ r, exec (.reserved80 r) s = .next (s.finish s.block [⟨0b1#1 ++ r, ⟨3#8, 1#32, []⟩⟩]))

/-- R27, R125, R128: nothing but RESET changes a CLOSED block at all, so the first CAUSE and INFO are kept; the
wire formats and the host's scripts included. -/
def Obligations.OnlyResetChangesAClosedBlock : Prop :=
  ∀ (i : Instr) (s t : State), s.block.run = .closed → i ≠ .reset → exec i s = .next t → t.block = s.block

/-- R25, R26: SEEDED is cleared by RESET alone and set by SEED on that lane alone; MODE is changed by RESET and by
SET_MODE on that lane alone. -/
def Obligations.OnlySeedSetModeAndResetChangeFlags : Prop :=
  ∀ (i : Instr) (s t : State) (c : Lane), exec i s = .next t →
    ((t.block.lane c).seeded ≠ (s.block.lane c).seeded → i = .reset ∨ ∃ secret iv, i = .seed c secret iv) ∧
    ((t.block.lane c).seeded = false → (s.block.lane c).seeded = true → i = .reset) ∧
    ((t.block.lane c).mode ≠ (s.block.lane c).mode → i = .reset ∨ ∃ arg, i = .setMode c arg)

/-- R21, R30, R35: LFSR registers and bit queues are changed by RESET, SEED, NEXT_BIT and PROCESS alone (and the
scripts that issue PROCESS), and the framer buffer by RESET, PUSH and EXTRACT_ONE alone (and FRAME and RX_DRAIN,
which issue them). -/
def Obligations.OnlyItsOwnCommandsChangeALaneOrTheBuffer : Prop :=
  ∀ (i : Instr) (s t : State) (c : Lane), exec i s = .next t →
    ((t.block.lane c).lfsr ≠ (s.block.lane c).lfsr ∨ (t.block.lane c).queue ≠ (s.block.lane c).queue →
      i = .reset ∨ (∃ secret iv, i = .seed c secret iv) ∨ i = .nextBit c ∨ (∃ buf, i = .process c buf) ∨
      (c = .send ∧ ∃ bytes, i = .txData bytes) ∨ (c = .recv ∧ ∃ bytes, i = .rxDrain bytes)) ∧
    (t.block.fbuf ≠ s.block.fbuf →
      i = .reset ∨ (∃ bytes, i = .push bytes) ∨ i = .extractOne ∨ (∃ payload, i = .frame payload) ∨
      ∃ bytes, i = .rxDrain bytes)

/-- The spec's inference R35: a command on a lane reads and writes nothing of the other lane or of the framer buffer.
Run on two states that agree on that lane and on STATE alone, it answers the same, leaves that lane the same, and
leaves the rest of each as it was. -/
def Obligations.LanesAreIndependent : Prop :=
  ∀ (i : Instr) (c d : Lane) (s t s' t' : State), d ≠ c →
    ((∃ arg, i = .setMode c arg) ∨ (∃ secret iv, i = .seed c secret iv) ∨ i = .nextBit c ∨
      ∃ buf, i = .process c buf) →
    s.block.lane c = t.block.lane c → s.block.run = t.block.run → exec i s = .next s' → exec i t = .next t' →
    s'.answers = t'.answers ∧ s'.block.lane c = t'.block.lane c ∧ s'.block.run = t'.block.run ∧
      s'.block.lane d = s.block.lane d ∧ s'.block.fbuf = s.block.fbuf ∧ s'.block.cause = s.block.cause ∧
      s'.block.info = s.block.info

/-! ## System commands -/

/-- R108 with the table of R34: RESET is accepted in every state and answers OK; queues empty, SEEDED 0, MODE XOR,
`fbuf` empty, ACTIVE, CAUSE 0, INFO 0. Nothing is said of the registers, which hold no value. -/
def Obligations.ResetIsAlwaysAccepted : Prop :=
  ∀ s : State, ∃ t, exec .reset s = .next t ∧ t.pending = s.pending ∧ t.answers = [⟨0x01#8, ⟨0#8, 0#32, []⟩⟩] ∧
    (∀ c, (t.block.lane c).queue = [] ∧ (t.block.lane c).seeded = false ∧ (t.block.lane c).mode = .xor) ∧
    t.block.fbuf = [] ∧ t.block.run = .active ∧ t.block.cause = 0#4 ∧ t.block.info = 0#32

/-- R109: STATUS is accepted in every state, writes nothing, and returns SW and LE32(INFO). -/
def Obligations.StatusReadsWithoutWriting : Prop :=
  ∀ s : State, exec .status s =
    .next (s.finish s.block [⟨0x02#8, ⟨0#8, statusWord s.block, le32 s.block.info.toNat⟩⟩])

/-- R28: the fields of the status word. -/
def Obligations.StatusWordHasTheLayout : Prop :=
  ∀ b : Block,
    (statusWord b).extractLsb' 0 4 = b.cause ∧
    ((statusWord b).getLsbD 4 = true ↔ b.run = .closed) ∧
    (statusWord b).getLsbD 5 = b.send.seeded ∧
    (statusWord b).getLsbD 6 = b.recv.seeded ∧
    ((statusWord b).getLsbD 7 = true ↔ b.send.mode = .identity) ∧
    ((statusWord b).getLsbD 8 = true ↔ b.recv.mode = .identity) ∧
    (statusWord b).extractLsb' 9 23 = 0#23

/-- R110: on an ACTIVE block CLOSE with 3, 4 or 5 closes it with that cause and INFO 0 and changes nothing else; any
other operand is refused BAD_OPERAND; on a CLOSED block it is refused and the first cause is kept. -/
def Obligations.CloseRecordsTheHostEvent : Prop :=
  ∀ (s : State) (arg : Word32),
    (s.block.run = .active → (arg = 3#32 ∨ arg = 4#32 ∨ arg = 5#32) →
      exec (.close arg) s = .next (s.finish
        { s.block with run := .closed, cause := arg.setWidth 4, info := 0#32 } [⟨0x0C#8, ⟨0#8, 0#32, []⟩⟩])) ∧
    (s.block.run = .active → ¬(arg = 3#32 ∨ arg = 4#32 ∨ arg = 5#32) →
      exec (.close arg) s = .next (s.finish s.block [⟨0x0C#8, ⟨3#8, 6#32, []⟩⟩])) ∧
    (s.block.run = .closed → exec (.close arg) s = .next (s.finish s.block [⟨0x0C#8, ⟨3#8, 2#32, []⟩⟩]))

/-! ## Keystream -/

/-- R72: LFSR_NEXT returns the top bit as it was before the shift; the register is then shifted toward the top and,
if the bit was 1, the polynomial is XORed in. A tap at position `n` has no effect: POLY and POLYLOW give the same. -/
def Obligations.LfsrStepShiftsThenXors : Prop :=
  ∀ (l : Lfsr) (s : Nat), 1 ≤ l.width → s < 2 ^ l.width →
    (lfsrNext l s).1 = decide (2 ^ (l.width - 1) ≤ s) ∧
    (lfsrNext l s).2 =
      (if 2 ^ (l.width - 1) ≤ s then (2 * s % 2 ^ l.width) ^^^ l.polyLow else 2 * s % 2 ^ l.width) ∧
    (lfsrNext l s).2 = (if 2 ^ (l.width - 1) ≤ s then (2 * s ^^^ l.poly) % 2 ^ l.width else 2 * s % 2 ^ l.width) ∧
    (lfsrNext l s).2 < 2 ^ l.width

/-- The spec's inference R73 from R72: state 0 stays 0 and returns 0; width 1; no tap below the width empties the
register in `n` steps; each register steps on its own; the step is linear over GF(2). -/
def Obligations.LfsrStepCornerCases : Prop :=
  (∀ l : Lfsr, lfsrNext l 0 = (false, 0)) ∧
  (∀ l : Lfsr, l.width = 1 → (lfsrNext l 1).2 = l.polyLow ∧ (lfsrNext l 0).2 = 0) ∧
  (∀ (l : Lfsr) (s : Nat), l.polyLow = 0 → s < 2 ^ l.width → lfsrIter l l.width s = 0) ∧
  (∀ (ls : List Lfsr) (regs : List Nat), regs.length = ls.length →
    (stepAll ls regs).2 = List.zipWith (fun l s => (lfsrNext l s).2) ls regs) ∧
  (∀ (l : Lfsr) (s t : Nat),
    (lfsrNext l (s ^^^ t)).1 = ((lfsrNext l s).1 ^^ (lfsrNext l t).1) ∧
    (lfsrNext l (s ^^^ t)).2 = (lfsrNext l s).2 ^^^ (lfsrNext l t).2)

/-- R74: a refill advances every LFSR by exactly `K` steps, forms the address from the `K` XOR results in the order
`ADDR_MSB_FIRST` says, inside the table, and queues the `M` bits of that entry, least significant at the head. -/
def Obligations.RefillLooksUpOneSboxEntry : Prop :=
  ∀ (cfg : Cfg) (l : LaneState), cfg.Valid → l.lfsr.length = cfg.nl →
    (refill cfg l).lfsr = List.zipWith (fun f s => lfsrIter f cfg.k s) cfg.lfsrs l.lfsr ∧
    (refill cfg l).seeded = l.seeded ∧ (refill cfg l).mode = l.mode ∧
    ∃ addr v, addr < 2 ^ cfg.k ∧
      (∀ i, i < cfg.k →
        addr.testBit (if cfg.addrMsbFirst = true then cfg.k - 1 - i else i) = addrBit cfg l.lfsr i) ∧
      cfg.sbox[addr]? = some v ∧ (refill cfg l).queue = (List.range cfg.m).map v.testBit

/-- R75: on an ACTIVE block SEED loads register `j` with the `W[j]` bits of the seed integer that follow the bits of
the registers before it, low bits first, empties the queue and sets SEEDED; MODE, the other lane and everything
else stay. A CLOSED block refuses it. -/
def Obligations.SeedSplitsTheSeedInteger : Prop :=
  ∀ (s : State) (c : Lane) (secret iv : List Byte),
    (s.block.run = .closed →
      exec (.seed c secret iv) s = .next (s.finish s.block [⟨0x04#8, ⟨3#8, 2#32, []⟩⟩])) ∧
    (s.block.run = .active → ∃ regs : List Nat,
      exec (.seed c secret iv) s = .next (s.finish
        (s.block.setLane c { s.block.lane c with lfsr := regs, queue := [], seeded := true })
        [⟨0x04#8, ⟨0#8, 0#32, []⟩⟩]) ∧
      regs.length = Config.config.nl ∧
      ∀ (j w : Nat), Config.config.widths[j]? = some w →
        regs[j]? = some (seedExpand Config.config secret iv Config.config.widths.sum /
          2 ^ (Config.config.widths.take j).sum % 2 ^ w))

/-- R76: the seed integer is the big-endian reading of `ceil(D / (8 * HLEN))` digests, digest `i` being the hash of
secret, iv and the demand's encoding at iteration `i`; together they meet the demand. -/
def Obligations.SeedExpansionMeetsTheDemand : Prop :=
  ∀ (cfg : Cfg) (secret iv : List Byte) (demand : Nat), cfg.Valid →
    ∃ (n : Nat) (bytes : List Byte),
      n = (demand + (8 * cfg.hlen - 1)) / (8 * cfg.hlen) ∧
      bytes = ((List.range n).map fun i =>
        cfg.hash (secret ++ iv ++ cfg.demandEnc demand i (8 * (i * cfg.hlen)))).flatten ∧
      seedExpand cfg secret iv demand = beInt bytes ∧ demand ≤ 8 * bytes.length

/-- The spec's inference R77 (b): only the concatenation of secret and iv matters. -/
def Obligations.SeedSeesOnlyTheConcatenation : Prop :=
  ∀ (s : State) (c : Lane) (secret iv secret' iv' : List Byte), secret ++ iv = secret' ++ iv' →
    exec (.seed c secret iv) s = exec (.seed c secret' iv') s

/-- R78: on an ACTIVE block NEXT_BIT of a seeded lane refills the queue exactly when it is empty, returns its head
and removes it; MODE is not read; nothing else changes. A CLOSED block refuses it, then an unseeded lane does. -/
def Obligations.NextBitReturnsTheQueueHead : Prop :=
  ∀ (s : State) (c : Lane),
    (s.block.run = .closed → exec (.nextBit c) s = .next (s.finish s.block [⟨0x05#8, ⟨3#8, 2#32, []⟩⟩])) ∧
    (s.block.run = .active → (s.block.lane c).seeded = false →
      exec (.nextBit c) s = .next (s.finish s.block [⟨0x05#8, ⟨3#8, 3#32, []⟩⟩])) ∧
    (s.block.run = .active → (s.block.lane c).seeded = true → ∀ l : LaneState,
      l = (if (s.block.lane c).queue = [] then refill Config.config (s.block.lane c) else s.block.lane c) →
      ∃ (bit : Bool) (rest : List Bool), l.queue = bit :: rest ∧
        exec (.nextBit c) s = .next (s.finish (s.block.setLane c { l with queue := rest })
          [⟨0x05#8, ⟨0#8, if bit = true then 1#32 else 0#32, []⟩⟩]))

/-- R22, R78, R84, R124: on an ACTIVE block NEXT_BIT of an unseeded lane, and PROCESS of an unseeded lane in XOR mode,
are refused NOT_SEEDED and change nothing. And no instruction reads a register that holds no value: run on two states
that differ only in the registers of unseeded lanes, each answers the same and leaves states that differ only there.
So nothing rests on the values the model put there (log 2). -/
def Obligations.UnseededLaneIsRefused : Prop :=
  (∀ (s : State) (c : Lane) (buf : List Byte), s.block.run = .active → (s.block.lane c).seeded = false →
    exec (.nextBit c) s = .next (s.finish s.block [⟨0x05#8, ⟨3#8, 3#32, []⟩⟩]) ∧
    ((s.block.lane c).mode = .xor →
      exec (.process c buf) s = .next (s.finish s.block [⟨0x06#8, ⟨3#8, 3#32, []⟩⟩]))) ∧
  ∀ (i : Instr) (s s' : State), s.pending = s'.pending → s.block.masked = s'.block.masked →
    ∃ t t' : State, exec i s = .next t ∧ exec i s' = .next t' ∧ t.answers = t'.answers ∧ t.pending = t'.pending ∧
      t.block.masked = t'.block.masked

/-- The spec's inference R79: the bits NEXT_BIT returns after SEED are a function of the configuration, the secret and
the iv alone, whatever the lane, the block and its history. -/
def Obligations.SeededKeystreamIsDeterministic : Prop :=
  ∀ (s : State) (c : Lane) (secret iv : List Byte) (n : Nat), s.block.run = .active →
    ∃ t : State, runAll (.seed c secret iv :: List.replicate n (.nextBit c)) s =
      some (t, ⟨0x04#8, ⟨0#8, 0#32, []⟩⟩ :: (List.range n).map fun k =>
        ⟨0x05#8, ⟨0#8, if keystreamBit Config.config secret iv k = true then 1#32 else 0#32, []⟩⟩)

/-- The spec's inference R81: the keystream is eventually periodic, with a period of `M * p` bits for some number `p`
of refills. -/
def Obligations.KeystreamIsEventuallyPeriodic : Prop :=
  ∀ (cfg : Cfg) (secret iv : List Byte), cfg.Valid →
    ∃ p t0 : Nat, 1 ≤ p ∧ ∀ t, t0 ≤ t → keystreamBit cfg secret iv (t + cfg.m * p) = keystreamBit cfg secret iv t

/-! ## Cipher -/

/-- R83: on an ACTIVE block SET_MODE writes MODE of one lane and nothing else; an operand other than 0 and 1 is
refused BAD_OPERAND. A CLOSED block refuses it, whatever the operand. -/
def Obligations.SetModeWritesTheModeAlone : Prop :=
  ∀ (s : State) (c : Lane),
    (s.block.run = .closed → ∀ arg,
      exec (.setMode c arg) s = .next (s.finish s.block [⟨0x03#8, ⟨3#8, 2#32, []⟩⟩])) ∧
    (s.block.run = .active →
      exec (.setMode c 0#32) s =
        .next (s.finish (s.block.setLane c { s.block.lane c with mode := .xor }) [⟨0x03#8, ⟨0#8, 0#32, []⟩⟩]) ∧
      exec (.setMode c 1#32) s =
        .next (s.finish (s.block.setLane c { s.block.lane c with mode := .identity }) [⟨0x03#8, ⟨0#8, 0#32, []⟩⟩]) ∧
      ∀ arg, arg ≠ 0#32 → arg ≠ 1#32 →
        exec (.setMode c arg) s = .next (s.finish s.block [⟨0x03#8, ⟨3#8, 6#32, []⟩⟩]))

/-- R84 with the bit order of R39: on an ACTIVE block, PROCESS of a seeded XOR lane XORs bit `p` of byte `t` with
keystream bit `8 t + p`, keeps the length, takes exactly 8 bits a byte and changes nothing but that lane's registers
and queue. Before that, in this order: a CLOSED block refuses, an IDENTITY lane returns the input, an unseeded lane
refuses. -/
def Obligations.ProcessXorsKeystreamBits : Prop :=
  ∀ (s : State) (c : Lane) (buf : List Byte),
    (s.block.run = .closed → exec (.process c buf) s = .next (s.finish s.block [⟨0x06#8, ⟨3#8, 2#32, []⟩⟩])) ∧
    (s.block.run = .active → (s.block.lane c).mode = .identity →
      exec (.process c buf) s = .next (s.finish s.block [⟨0x06#8, ⟨0#8, 0#32, buf⟩⟩])) ∧
    (s.block.run = .active → (s.block.lane c).mode = .xor → (s.block.lane c).seeded = false →
      exec (.process c buf) s = .next (s.finish s.block [⟨0x06#8, ⟨3#8, 3#32, []⟩⟩])) ∧
    (s.block.run = .active → (s.block.lane c).mode = .xor → (s.block.lane c).seeded = true → ∃ out : List Byte,
      exec (.process c buf) s = .next (s.finish
        (s.block.setLane c (kbits Config.config (8 * buf.length) (s.block.lane c)).2) [⟨0x06#8, ⟨0#8, 0#32, out⟩⟩]) ∧
      out.length = buf.length ∧
      ∀ (t p : Nat) (x y : Byte), p < 8 → buf[t]? = some x → out[t]? = some y →
        some (y.getLsbD p ^^ x.getLsbD p) =
          (kbits Config.config (8 * buf.length) (s.block.lane c)).1[8 * t + p]?)

/-- R86: on an ACTIVE block PROCESS of an IDENTITY lane returns its input and changes nothing, seeded or not. -/
def Obligations.IdentityLaneReturnsItsInput : Prop :=
  ∀ (s : State) (c : Lane) (buf : List Byte), s.block.run = .active → (s.block.lane c).mode = .identity →
    exec (.process c buf) s = .next (s.finish s.block [⟨0x06#8, ⟨0#8, 0#32, buf⟩⟩])

/-- The spec's inference R85 (c): on an ACTIVE block, PROCESS of a buffer in one command equals PROCESS of its two
pieces in successive commands, on a lane that PROCESS accepts. -/
def Obligations.ProcessSplitsAtAnyByte : Prop :=
  ∀ (s : State) (c : Lane) (x y : List Byte), s.block.run = .active →
    ((s.block.lane c).mode = .identity ∨ (s.block.lane c).seeded = true) →
    ∃ (b : Block) (o1 o2 : List Byte),
      exec (.process c (x ++ y)) s = .next (s.finish b [⟨0x06#8, ⟨0#8, 0#32, o1 ++ o2⟩⟩]) ∧
      runAll [.process c x, .process c y] s = some
        (s.finish b [⟨0x06#8, ⟨0#8, 0#32, o2⟩⟩], [⟨0x06#8, ⟨0#8, 0#32, o1⟩⟩, ⟨0x06#8, ⟨0#8, 0#32, o2⟩⟩])

/-- The spec's inference R85 (e): the keystream does not depend on the data. Two buffers of one length leave the lane
the same, and their outputs differ exactly where they do. -/
def Obligations.KeystreamIgnoresTheData : Prop :=
  ∀ (cfg : Cfg) (l : LaneState) (x y : List Byte), x.length = y.length →
    (xorBuffer cfg x l).2 = (xorBuffer cfg y l).2 ∧
    List.zipWith (fun a b => a ^^^ b) (xorBuffer cfg x l).1 (xorBuffer cfg y l).1 =
      List.zipWith (fun a b => a ^^^ b) x y

/-- The spec's inference R85 (a): with `M = 4` and an empty queue, a byte takes exactly two refills: every LFSR
advances `2 * K` steps and the queue is empty again. -/
def Obligations.ByteTakesTwoRefillsWhenEntriesAreNibbles : Prop :=
  ∀ (cfg : Cfg) (l : LaneState), cfg.Valid → cfg.m = 4 → l.lfsr.length = cfg.nl → l.queue = [] →
    (ksByte cfg l).2.lfsr = List.zipWith (fun f s => lfsrIter f (2 * cfg.k) s) cfg.lfsrs l.lfsr ∧
    (ksByte cfg l).2.queue = []

/-- The spec's inference R87: two XOR lanes at the same keystream state undo each other, across any split of the bytes
into commands on either side, and are at the same keystream state again afterwards. -/
def Obligations.ProcessIsItsOwnInverseOnThePeerLane : Prop :=
  ∀ (s s' : State) (c c' : Lane) (pieces pieces' : List (List Byte)) (t : State) (as : List Answer),
    s.block.run = .active → s'.block.run = .active →
    (s.block.lane c).mode = .xor → (s'.block.lane c').mode = .xor →
    (s.block.lane c).seeded = true → (s'.block.lane c').seeded = true →
    sameKeystream (s.block.lane c) (s'.block.lane c') →
    runAll (pieces.map (.process c)) s = some (t, as) →
    pieces'.flatten = (as.map fun a => a.resp.out).flatten →
    ∃ (t' : State) (as' : List Answer), runAll (pieces'.map (.process c')) s' = some (t', as') ∧
      (as'.map fun a => a.resp.out).flatten = pieces.flatten ∧
      sameKeystream (t.block.lane c) (t'.block.lane c')

/-! ## Framer -/

/-- R91 with the guard of R93: on an ACTIVE block PUSH appends all its bytes, or is refused FRAMER_FULL and takes none
when they would exceed a finite capacity; nothing else changes. A CLOSED block refuses it. -/
def Obligations.PushAppendsOrIsRefusedWhole : Prop :=
  ∀ (s : State) (bytes : List Byte),
    (s.block.run = .closed → exec (.push bytes) s = .next (s.finish s.block [⟨0x07#8, ⟨3#8, 2#32, []⟩⟩])) ∧
    (s.block.run = .active →
      (∀ cap, Config.config.framerCap = some cap → s.block.fbuf.length + bytes.length ≤ cap) →
      exec (.push bytes) s = .next
        (s.finish { s.block with fbuf := s.block.fbuf ++ bytes } [⟨0x07#8, ⟨0#8, 0#32, []⟩⟩])) ∧
    (s.block.run = .active →
      (∃ cap, Config.config.framerCap = some cap ∧ cap < s.block.fbuf.length + bytes.length) →
      exec (.push bytes) s = .next (s.finish s.block [⟨0x07#8, ⟨3#8, 4#32, []⟩⟩]))

/-- R94, R95 (b) and (c): on an ACTIVE block whose head is the prefix of a length that fits the capacity,
EXTRACT_ONE removes and returns a whole payload, an empty one too, and answers NOTHING without consuming a byte when
the payload is not whole; with fewer than four bytes it answers NOTHING; with a length over a finite capacity it
faults. A CLOSED block refuses it. -/
def Obligations.ExtractOneTakesOneWholeFrame : Prop :=
  ∀ s : State,
    (s.block.run = .closed → exec .extractOne s = .next (s.finish s.block [⟨0x08#8, ⟨3#8, 2#32, []⟩⟩])) ∧
    (s.block.run = .active → s.block.fbuf.length < 4 →
      exec .extractOne s = .next (s.finish s.block [⟨0x08#8, ⟨1#8, 0#32, []⟩⟩])) ∧
    ∀ (len : Nat) (rest : List Byte), s.block.run = .active → len < 2 ^ 32 → s.block.fbuf = le32 len ++ rest →
      ((∃ cap, Config.config.framerCap = some cap ∧ cap < 4 + len) → exec .extractOne s = .next (s.finish
        { s.block with run := .closed, cause := 1#4, info := BitVec.ofNat 32 len } [⟨0x08#8, ⟨2#8, 1#32, []⟩⟩])) ∧
      ((∀ cap, Config.config.framerCap = some cap → 4 + len ≤ cap) → rest.length < len →
        exec .extractOne s = .next (s.finish s.block [⟨0x08#8, ⟨1#8, 0#32, []⟩⟩])) ∧
      ((∀ cap, Config.config.framerCap = some cap → 4 + len ≤ cap) → len ≤ rest.length →
        exec .extractOne s = .next (s.finish { s.block with fbuf := rest.drop len }
          [⟨0x08#8, ⟨0#8, BitVec.ofNat 32 len, rest.take len⟩⟩]))

/-- R96, R126, R131: with a finite capacity, a length prefix that announces a frame over it faults as soon as its
four bytes are there: the block closes with CAUSE 1 and INFO the length, `fbuf` and the lanes stay. -/
def Obligations.OversizeLengthIsAFramingFault : Prop :=
  ∀ (cfg : Cfg) (cap len : Nat) (rest : List Byte) (b : Block), cfg.framerCap = some cap → b.run = .active →
    len < 2 ^ 32 → cap < 4 + len → b.fbuf = le32 len ++ rest →
    cmdExtractOne cfg b =
      ({ b with run := .closed, cause := 1#4, info := BitVec.ofNat 32 len }, ⟨2#8, 1#32, []⟩)

/-- R93: when EXTRACT_ONE answers NOTHING, at least one byte can be pushed into a finite buffer. -/
def Obligations.DrainedBufferHasRoom : Prop :=
  ∀ (cfg : Cfg) (cap : Nat) (b : Block), cfg.Valid → cfg.framerCap = some cap →
    (cmdExtractOne cfg b).2.status = 1#8 → (cmdExtractOne cfg b).1 = b ∧ b.fbuf.length < cap

/-- R97, R98: on an ACTIVE block MAKE puts the 4-byte little-endian payload length before the payload, or is refused
TOO_LONG from 2^32 bytes on, whatever the capacity; nothing changes. A CLOSED block refuses it. -/
def Obligations.MakeFramesThePayload : Prop :=
  ∀ (s : State) (payload : List Byte),
    (s.block.run = .closed → exec (.make payload) s = .next (s.finish s.block [⟨0x09#8, ⟨3#8, 2#32, []⟩⟩])) ∧
    (s.block.run = .active → payload.length < 2 ^ 32 →
      exec (.make payload) s = .next (s.finish s.block [⟨0x09#8, ⟨0#8, 0#32, le32 payload.length ++ payload⟩⟩])) ∧
    (s.block.run = .active → 2 ^ 32 ≤ payload.length →
      exec (.make payload) s = .next (s.finish s.block [⟨0x09#8, ⟨3#8, 5#32, []⟩⟩]))

/-- The spec's inference R99 (a): from an empty buffer, PUSH of what MAKE returns for a payload and then EXTRACT_ONE
give that payload and leave the block as it was. -/
def Obligations.FramingRoundTrip : Prop :=
  ∀ (s : State) (payload : List Byte), s.block.run = .active → s.block.fbuf = [] → payload.length < 2 ^ 32 →
    (∀ cap, Config.config.framerCap = some cap → 4 + payload.length ≤ cap) →
    runAll [.make payload, .push (frameBytes payload), .extractOne] s = some
      (s.finish s.block [⟨0x08#8, ⟨0#8, BitVec.ofNat 32 payload.length, payload⟩⟩],
       [⟨0x09#8, ⟨0#8, 0#32, frameBytes payload⟩⟩, ⟨0x07#8, ⟨0#8, 0#32, []⟩⟩,
        ⟨0x08#8, ⟨0#8, BitVec.ofNat 32 payload.length, payload⟩⟩])

/-- The spec's inference R99 (b): however a frame's bytes are split over PUSH commands, with an EXTRACT_ONE after
each, exactly one payload comes out, the right one, and the buffer ends empty. -/
def Obligations.SplitFrameIsReassembledOnce : Prop :=
  ∀ (s : State) (payload : List Byte) (pieces : List (List Byte)), s.block.run = .active → s.block.fbuf = [] →
    payload.length < 2 ^ 32 → (∀ cap, Config.config.framerCap = some cap → 4 + payload.length ≤ cap) →
    pieces.flatten = frameBytes payload →
    ∃ (t : State) (as : List Answer),
      runAll (pieces.flatMap fun x => [.push x, .extractOne]) s = some (t, as) ∧ t.block = s.block ∧
      okOutputs 0x08#8 as = [payload]

/-- The spec's inference R99 (c): a buffer of concatenated frames yields exactly their payloads, in arrival order, and
then NOTHING. -/
def Obligations.ConcatenatedFramesComeOutInOrder : Prop :=
  ∀ (s : State) (payloads : List (List Byte)), s.block.run = .active →
    s.block.fbuf = (payloads.map frameBytes).flatten →
    (∀ p ∈ payloads, p.length < 2 ^ 32 ∧ ∀ cap, Config.config.framerCap = some cap → 4 + p.length ≤ cap) →
    ∃ t : State, runAll (List.replicate (payloads.length + 1) .extractOne) s = some
        (t, (payloads.map fun p => ⟨0x08#8, ⟨0#8, BitVec.ofNat 32 p.length, p⟩⟩) ++ [⟨0x08#8, ⟨1#8, 0#32, []⟩⟩]) ∧
      t.block = { s.block with fbuf := [] }

/-- The FRAME row, whose meaning is the model's choice (log 7; R54, R91, R94): into an empty buffer, a frame that fits
is pushed and taken apart, and the block is as before. -/
def Obligations.FrameRowDeliversItsPayload : Prop :=
  ∀ (s : State) (payload : List Byte), s.block.run = .active → s.block.fbuf = [] → payload.length < 2 ^ 32 →
    (∀ cap, Config.config.framerCap = some cap → 4 + payload.length ≤ cap) →
    exec (.frame payload) s = .next (s.finish s.block
      [⟨0x07#8, ⟨0#8, 0#32, []⟩⟩, ⟨0x08#8, ⟨0#8, BitVec.ofNat 32 payload.length, payload⟩⟩])

/-! ## Codec -/

/-- R101, R102: on an ACTIVE block ENCODE puts the 4-byte tag 1 or 2 before the body; any other tag is refused
BAD_OPERAND; nothing changes. A CLOSED block refuses it, whatever the tag. -/
def Obligations.EncodeTagsTheBody : Prop :=
  ∀ (s : State) (arg : Word32) (body : List Byte),
    (s.block.run = .closed → exec (.encode arg body) s = .next (s.finish s.block [⟨0x0A#8, ⟨3#8, 2#32, []⟩⟩])) ∧
    (s.block.run = .active → (arg = 1#32 ∨ arg = 2#32) →
      exec (.encode arg body) s = .next (s.finish s.block [⟨0x0A#8, ⟨0#8, 0#32, le32 arg.toNat ++ body⟩⟩])) ∧
    (s.block.run = .active → ¬(arg = 1#32 ∨ arg = 2#32) →
      exec (.encode arg body) s = .next (s.finish s.block [⟨0x0A#8, ⟨3#8, 6#32, []⟩⟩]))

/-- R103, R104, R105, R126: on an ACTIVE block DECODE of a tag 1 or 2 answers the tag and the body and changes
nothing; of any other tag it closes the block with CAUSE 2 and INFO the tag; of fewer than four bytes with CAUSE 1
and INFO the length. A CLOSED block refuses it. -/
def Obligations.DecodeDispatchesOnTheTag : Prop :=
  ∀ s : State,
    (s.block.run = .closed → ∀ msg : List Byte,
      exec (.decode msg) s = .next (s.finish s.block [⟨0x0B#8, ⟨3#8, 2#32, []⟩⟩])) ∧
    (s.block.run = .active → ∀ (tag : Word32) (body : List Byte), (tag = 1#32 ∨ tag = 2#32) →
      exec (.decode (le32 tag.toNat ++ body)) s = .next (s.finish s.block [⟨0x0B#8, ⟨0#8, tag, body⟩⟩])) ∧
    (s.block.run = .active → ∀ (tag : Word32) (body : List Byte), ¬(tag = 1#32 ∨ tag = 2#32) →
      exec (.decode (le32 tag.toNat ++ body)) s = .next (s.finish
        { s.block with run := .closed, cause := 2#4, info := tag } [⟨0x0B#8, ⟨2#8, 2#32, []⟩⟩])) ∧
    (s.block.run = .active → ∀ msg : List Byte, msg.length < 4 →
      exec (.decode msg) s = .next (s.finish
        { s.block with run := .closed, cause := 1#4, info := BitVec.ofNat 32 msg.length } [⟨0x0B#8, ⟨2#8, 1#32, []⟩⟩]))

/-- The three MSG rows, whose meaning is the model's choice (log 6; R103, R104), do what DECODE does with their bytes:
on an ACTIVE block the answer or the fault, on a CLOSED one the refusal. -/
def Obligations.MessageRowsAreDecoded : Prop :=
  ∀ (s : State) (body : List Byte),
    (s.block.run = .active →
      exec (.msgReseed body) s = .next (s.finish s.block [⟨0x0B#8, ⟨0#8, 1#32, body⟩⟩]) ∧
      exec (.msgData body) s = .next (s.finish s.block [⟨0x0B#8, ⟨0#8, 2#32, body⟩⟩]) ∧
      ∀ tag : Word32, tag ≠ 1#32 → tag ≠ 2#32 →
        exec (.msgUnrecognised tag body) s = .next (s.finish
          { s.block with run := .closed, cause := 2#4, info := tag } [⟨0x0B#8, ⟨2#8, 2#32, []⟩⟩])) ∧
    (s.block.run = .closed → ∀ (i : Instr) (tag : Word32),
      i = .msgReseed body ∨ i = .msgData body ∨ i = .msgUnrecognised tag body →
      exec i s = .next (s.finish s.block [⟨0x0B#8, ⟨3#8, 2#32, []⟩⟩]))

/-- The spec's inference R106: DECODE of what ENCODE returns gives the tag and the body back, and ENCODE of what
DECODE accepts gives the message back. -/
def Obligations.CodecRoundTrip : Prop :=
  ∀ s : State, s.block.run = .active →
    (∀ (tag : Word32) (body out : List Byte) (t : State), (tag = 1#32 ∨ tag = 2#32) →
      exec (.encode tag body) s = .next t → t.answers = [⟨0x0A#8, ⟨0#8, 0#32, out⟩⟩] →
      exec (.decode out) s = .next (s.finish s.block [⟨0x0B#8, ⟨0#8, tag, body⟩⟩])) ∧
    (∀ (msg : List Byte) (tag : Word32) (body : List Byte) (t : State),
      exec (.decode msg) s = .next t → t.answers = [⟨0x0B#8, ⟨0#8, tag, body⟩⟩] →
      exec (.encode tag body) s = .next (s.finish s.block [⟨0x0A#8, ⟨0#8, 0#32, msg⟩⟩]))

/-! ## The relay scripts -/

/-- R112, run in one step by the model's choice (log 8): TX_DATA of some bytes on an ACTIVE block whose lane SEND
accepts PROCESS runs PROCESS, ENCODE and MAKE, all OK, and gives one Data message in one frame, `8 + len` bytes on the
wire, around what PROCESS returns; the block ends as PROCESS leaves it. -/
def Obligations.TxDataSendsOneDataFrame : Prop :=
  ∀ (s : State) (bytes : List Byte), s.block.run = .active → bytes ≠ [] → bytes.length + 4 < 2 ^ 32 →
    (s.block.lane .send).accepts →
    ∃ (p : State) (ct : List Byte) (as : List Answer),
      exec (.process .send bytes) s = .next p ∧ p.answers = [⟨0x06#8, ⟨0#8, 0#32, ct⟩⟩] ∧ ct.length = bytes.length ∧
      as = [⟨0x06#8, ⟨0#8, 0#32, ct⟩⟩, ⟨0x0A#8, ⟨0#8, 0#32, le32 2 ++ ct⟩⟩,
        ⟨0x09#8, ⟨0#8, 0#32, le32 (4 + bytes.length) ++ le32 2 ++ ct⟩⟩] ∧
      exec (.txData bytes) s = .next (s.finish p.block as) ∧
      wireOf as = some (le32 (4 + bytes.length) ++ le32 2 ++ ct)

/-- R112, run in one step by the model's choice (log 8): a read of 2^32 - 4 bytes or more, on a lane SEND that accepts
PROCESS, is encrypted and encoded and then refused TOO_LONG by MAKE: nothing is sent, and the lane has advanced all
the same. -/
def Obligations.TxDataTooLongAdvancesTheLane : Prop :=
  ∀ (s : State) (bytes : List Byte), s.block.run = .active → 2 ^ 32 ≤ bytes.length + 4 →
    (s.block.lane .send).accepts →
    ∃ (p : State) (ct : List Byte),
      exec (.process .send bytes) s = .next p ∧ p.answers = [⟨0x06#8, ⟨0#8, 0#32, ct⟩⟩] ∧
      exec (.txData bytes) s = .next (s.finish p.block
        [⟨0x06#8, ⟨0#8, 0#32, ct⟩⟩, ⟨0x0A#8, ⟨0#8, 0#32, le32 2 ++ ct⟩⟩, ⟨0x09#8, ⟨3#8, 5#32, []⟩⟩])

/-- Where the host stops a script at a refused command, and what it leaves (R112, R125; R84 for NOT_SEEDED, R93 for
FRAMER_FULL; the model's choice for FRAME, log 7, and for RX_DRAIN, log 10): FRAME, RX_DRAIN and TX_DATA at their
first command on a CLOSED block; TX_DATA at PROCESS on an unseeded XOR lane SEND; FRAME at PUSH when the frame does
not fit; RX_DRAIN at PROCESS of a Data message on an unseeded XOR lane RECV, its frame taken out and what follows
kept. RX_DRAIN does not stop at a PUSH refused FRAMER_FULL (R114, log 9). The last two hold for every configuration,
the built one of `exec` among them. -/
def Obligations.ScriptsStopAtARefusal : Prop :=
  (∀ (s : State) (bytes : List Byte), s.block.run = .closed →
    exec (.frame bytes) s = .next (s.finish s.block [⟨0x07#8, ⟨3#8, 2#32, []⟩⟩]) ∧
    exec (.rxDrain bytes) s = .next (s.finish s.block [⟨0x07#8, ⟨3#8, 2#32, []⟩⟩]) ∧
    exec (.txData bytes) s =
      .next (s.finish s.block [⟨if bytes = [] then 0x0C#8 else 0x06#8, ⟨3#8, 2#32, []⟩⟩])) ∧
  (∀ (s : State) (bytes : List Byte), s.block.run = .active → s.block.send.mode = .xor → s.block.send.seeded = false →
    bytes ≠ [] → exec (.txData bytes) s = .next (s.finish s.block [⟨0x06#8, ⟨3#8, 3#32, []⟩⟩])) ∧
  (∀ (cfg : Cfg) (cap : Nat) (payload : List Byte) (b : Block), b.run = .active → cfg.framerCap = some cap →
    cap < b.fbuf.length + (4 + payload.length) →
    relayFrame cfg payload b = ⟨b, [⟨0x07#8, ⟨3#8, 4#32, []⟩⟩], false⟩) ∧
  (∀ (cfg : Cfg) (body more : List Byte) (b : Block), b.run = .active → b.fbuf = [] → b.recv.mode = .xor →
    b.recv.seeded = false → body.length + 4 < 2 ^ 32 →
    capAdmits cfg ((dataOnWire body).length + more.length) = true →
    relayRx cfg (dataOnWire body ++ more) b = ⟨{ b with fbuf := more },
      [⟨0x07#8, ⟨0#8, 0#32, []⟩⟩, ⟨0x08#8, ⟨0#8, BitVec.ofNat 32 (4 + body.length), le32 2 ++ body⟩⟩,
       ⟨0x0B#8, ⟨0#8, 2#32, body⟩⟩, ⟨0x06#8, ⟨3#8, 3#32, []⟩⟩], false⟩) ∧
  (∀ (s : State) (bytes : List Byte),
    exec (.frame bytes) s = .next (s.finish (relayFrame Config.config bytes s.block).block
      (relayFrame Config.config bytes s.block).answers) ∧
    exec (.rxDrain bytes) s = .next (s.finish (relayRx Config.config bytes s.block).block
      (relayRx Config.config bytes s.block).answers))

/-- R113, run in one step by the model's choice (log 8): zero bytes are never encrypted and never sent: TX_DATA of
nothing is the one command CLOSE END_OF_STREAM. -/
def Obligations.TxDataOfNothingIsEndOfStream : Prop :=
  ∀ s : State, s.block.run = .active →
    exec (.txData []) s = .next (s.finish { s.block with run := .closed, cause := 4#4, info := 0#32 }
      [⟨0x0C#8, ⟨0#8, 0#32, []⟩⟩])

/-- R114, R115, and R96 where the frame exceeds a finite capacity; run in one step, and split at a full buffer, by the
model's choice (log 8, log 9). RX_DRAIN of one Data message's frame, into an empty buffer of an ACTIVE block whose
lane RECV accepts PROCESS, delivers what PROCESS of the body on lane RECV returns and leaves the block as that PROCESS
does; where the frame is over the capacity, the block closes with FRAMING_FAULT and INFO the length, the lanes
untouched. -/
def Obligations.RxDrainDeliversADataMessage : Prop :=
  ∀ (s : State) (body : List Byte), s.block.run = .active → s.block.fbuf = [] → body.length + 4 < 2 ^ 32 →
    (s.block.lane .recv).accepts →
    ∃ (p t : State) (pt : List Byte),
      exec (.process .recv body) s = .next p ∧ p.answers = [⟨0x06#8, ⟨0#8, 0#32, pt⟩⟩] ∧ pt.length = body.length ∧
      exec (.rxDrain (dataOnWire body)) s = .next t ∧ t.pending = s.pending ∧
      ((∀ cap, Config.config.framerCap = some cap → 8 + body.length ≤ cap) →
        t.block = p.block ∧ outsOf t.answers = [pt]) ∧
      (∀ cap, Config.config.framerCap = some cap → cap < 8 + body.length →
        t.block.run = .closed ∧ t.block.cause = 1#4 ∧ t.block.info = BitVec.ofNat 32 (4 + body.length) ∧
        outsOf t.answers = [] ∧ ∀ c, t.block.lane c = s.block.lane c)

/-- R116 (e), run in one step by the model's choice (log 8): RX_DRAIN of nothing on an ACTIVE block with an empty
buffer is a PUSH of nothing and one EXTRACT_ONE that answers NOTHING; it is no end of stream and changes nothing. -/
def Obligations.RxDrainOfNothingChangesNothing : Prop :=
  ∀ s : State, s.block.run = .active → s.block.fbuf = [] →
    exec (.rxDrain []) s =
      .next (s.finish s.block [⟨0x07#8, ⟨0#8, 0#32, []⟩⟩, ⟨0x08#8, ⟨1#8, 0#32, []⟩⟩])

/-- R117, R116 (c) and (d), run in one step by the model's choice (log 8): a Reseed message that RX_DRAIN receives
closes the block with UNIMPLEMENTED_RESEED and INFO 0; its frame is gone, what follows it stays unread, nothing is
delivered, and no lane is seeded or touched. -/
def Obligations.ReceivedReseedIsFatal : Prop :=
  ∀ (cfg : Cfg) (b : Block) (body more : List Byte), cfg.Valid → b.run = .active → b.fbuf = [] →
    body.length + 4 < 2 ^ 32 →
    capAdmits cfg ((frameBytes (le32 1 ++ body)).length + more.length) = true →
    (relayRx cfg (frameBytes (le32 1 ++ body) ++ more) b).block =
      { b with fbuf := more, run := .closed, cause := 3#4, info := 0#32 } ∧
    (relayRx cfg (frameBytes (le32 1 ++ body) ++ more) b).answers.map Answer.op = [0x07#8, 0x08#8, 0x0B#8, 0x0C#8] ∧
    outsOf (relayRx cfg (frameBytes (le32 1 ++ body) ++ more) b).answers = []

/-- R116 (b), (c), (d), with R117, R104, R105 and R96; the script runs in one step by the model's choice (log 8). RX_DRAIN
of Data messages and then a message it cannot relay, all in one PUSH into an empty buffer of an ACTIVE block whose lane
RECV accepts PROCESS: the Data messages are delivered, in order, and stay delivered, and the block then closes. After a
Reseed: CAUSE 3, INFO 0. After an unknown tag: CAUSE 2, INFO the tag. After a payload of fewer than four bytes, an empty
one too: CAUSE 1, INFO its length. Each time the offending frame is gone and what follows it stays unread. After a
length over a finite capacity: CAUSE 1, INFO the length, and the frame is still in the buffer. -/
def Obligations.EarlierMessagesStayDelivered : Prop :=
  ∀ (cfg : Cfg) (b : Block) (bodies : List (List Byte)) (tail : List Byte) (x : Relay)
    (ps : List (List Byte) × LaneState), cfg.Valid → b.run = .active → b.fbuf = [] → b.recv.accepts →
    (∀ m ∈ bodies, m.length + 4 < 2 ^ 32) →
    capAdmits cfg ((bodies.map dataOnWire).flatten.length + tail.length) = true →
    x = relayRx cfg ((bodies.map dataOnWire).flatten ++ tail) b → ps = processEach cfg bodies b.recv →
    (∀ body more, body.length + 4 < 2 ^ 32 → tail = frameBytes (le32 1 ++ body) ++ more →
      outsOf x.answers = ps.1 ∧
      x.block = { b with recv := ps.2, fbuf := more, run := .closed, cause := 3#4, info := 0#32 }) ∧
    (∀ (tag : Word32) (body more : List Byte), tag ≠ 1#32 → tag ≠ 2#32 → body.length + 4 < 2 ^ 32 →
      tail = frameBytes (le32 tag.toNat ++ body) ++ more →
      outsOf x.answers = ps.1 ∧
      x.block = { b with recv := ps.2, fbuf := more, run := .closed, cause := 2#4, info := tag }) ∧
    (∀ payload more : List Byte, payload.length < 4 → tail = frameBytes payload ++ more →
      outsOf x.answers = ps.1 ∧
      x.block = { b with recv := ps.2, fbuf := more, run := .closed, cause := 1#4,
                         info := BitVec.ofNat 32 payload.length }) ∧
    (∀ (cap len : Nat) (more : List Byte), cfg.framerCap = some cap → len < 2 ^ 32 → cap < 4 + len →
      tail = le32 len ++ more →
      outsOf x.answers = ps.1 ∧
      x.block = { b with recv := ps.2, fbuf := tail, run := .closed, cause := 1#4, info := BitVec.ofNat 32 len })

/-- R114: RX_DRAIN drains. It ends only with an EXTRACT_ONE that answers NOTHING, on the block it leaves, a fault, the
CLOSE of a Reseed, or, by the model's choice (log 10), a refused command; its bounded loops (log 15) never cut it
short. Where the buffer is within its capacity (R36), that refusal is PUSH on a CLOSED block or PROCESS on an unseeded
lane: never FRAMER_FULL, after which the pushing goes on. -/
def Obligations.RxDrainEndsOnlyWhenDrained : Prop :=
  ∀ (cfg : Cfg) (bytes : List Byte) (b : Block), cfg.Valid →
    ∃ a : Answer, (relayRx cfg bytes b).answers.getLast? = some a ∧
      ((a.op = 0x08#8 ∧ a.resp.status = 1#8 ∧
          cmdExtractOne cfg (relayRx cfg bytes b).block = ((relayRx cfg bytes b).block, a.resp)) ∨
        a.resp.status = 2#8 ∨ a.resp.status = 3#8 ∨ (a.op = 0x0C#8 ∧ a.resp.status = 0#8)) ∧
      ((∀ cap, cfg.framerCap = some cap → b.fbuf.length ≤ cap) → a.resp.status = 3#8 →
        (a.op = 0x07#8 ∧ a.resp.info = 2#32 ∧ b.run = .closed) ∨ (a.op = 0x06#8 ∧ a.resp.info = 3#32))

/-- The spec's inference R118, end to end; the scripts run in one step and split at a full buffer by the model's
choice (log 8, log 9). Two ACTIVE blocks of one configuration, lane SEND of one paired with lane RECV of the other,
the other's buffer empty: whatever non-empty reads that fit a frame and the capacity go through TX_DATA at one end
come out of RX_DRAIN at the other, one for each message and unchanged, however the wire bytes are cut; and the lanes
are paired again. -/
def Obligations.TunnelRelaysEveryMessage : Prop :=
  ∀ (cfg : Cfg) (a b : Block) (ms cuts : List (List Byte)), cfg.Valid → a.run = .active → b.run = .active →
    b.fbuf = [] → paired (a.lane .send) (b.lane .recv) →
    (∀ m ∈ ms, m ≠ [] ∧ m.length + 4 < 2 ^ 32 ∧ capAdmits cfg (8 + m.length) = true) →
    cuts.flatten = (okOutputs 0x09#8 (txAll cfg ms a).2).flatten →
    outsOf (rxAll cfg cuts b).2 = ms ∧ (rxAll cfg cuts b).1.run = .active ∧ (rxAll cfg cuts b).1.fbuf = [] ∧
      paired ((txAll cfg ms a).1.lane .send) ((rxAll cfg cuts b).1.lane .recv)
end

