-- ==== Sys2Proof/Tests/Slice0.lean ====
section
/-! SUPPORT. Tests. Expected values are the worked vectors V1 to V26 and programs P1 to P5 of 95_test_vectors.md, or
words written out by hand from 30_encoding.md; the toy configurations are that file's own. After them, for each
statement with hypotheses, a state and operands that meet them. -/

namespace Sys2Proof.Tests

open Sys2Proof Sys2Proof.Machine

/-! ## Ill-formed terms -/

theorem test_wellFormed_refuses_tag_reseed : (Instr.msgUnrecognised 1#32 []).wellFormed = false := by decide

theorem test_wellFormed_refuses_tag_data : (Instr.msgUnrecognised 2#32 [0xAA#8]).wellFormed = false := by decide

theorem long_frame_ill_formed (payload : List Byte) (h : payload.length = 2 ^ 32) :
    (Instr.frame payload).wellFormed = false := by
  simp [Instr.wellFormed, h]

theorem test_wellFormed_refuses_long_frame : (Instr.frame (List.replicate (2 ^ 32) 0#8)).wellFormed = false :=
  long_frame_ill_formed _ List.length_replicate

/-! ## Decoding: one word for every constructor, from the tables of R59, R65, R55 and R54 -/

theorem test_decode_reset : decode (.cmd ⟨0b00000001#8, 0#1, 0#32, [], []⟩) = .ok .reset := by decide

theorem test_decode_status : decode (.cmd ⟨0b00000010#8, 0#1, 0#32, [], []⟩) = .ok .status := by decide

theorem test_decode_setMode : decode (.cmd ⟨0b00000011#8, 1#1, 1#32, [], []⟩) = .ok (.setMode .recv 1#32) := by decide

/-- P1, line 2. -/
theorem test_decode_seed : decode (.cmd ⟨0b00000100#8, 0#1, 0#32, [0x61#8, 0x62#8, 0x63#8], [0x00#8]⟩) =
    .ok (.seed .send [0x61#8, 0x62#8, 0x63#8] [0x00#8]) := by decide

theorem test_decode_nextBit : decode (.cmd ⟨0b00000101#8, 1#1, 0#32, [], []⟩) = .ok (.nextBit .recv) := by decide

theorem test_decode_process : decode (.cmd ⟨0b00000110#8, 0#1, 0#32, [0x68#8], []⟩) = .ok (.process .send [0x68#8]) := by
  decide

theorem test_decode_push : decode (.cmd ⟨0b00000111#8, 0#1, 0#32, [0x05#8], []⟩) = .ok (.push [0x05#8]) := by decide

theorem test_decode_extractOne : decode (.cmd ⟨0b00001000#8, 0#1, 0#32, [], []⟩) = .ok .extractOne := by decide

theorem test_decode_make : decode (.cmd ⟨0b00001001#8, 0#1, 0#32, [0xAB#8], []⟩) = .ok (.make [0xAB#8]) := by decide

theorem test_decode_encode : decode (.cmd ⟨0b00001010#8, 0#1, 2#32, [0xB5#8], []⟩) = .ok (.encode 2#32 [0xB5#8]) := by
  decide

theorem test_decode_decode : decode (.cmd ⟨0b00001011#8, 0#1, 0#32, [0x02#8], []⟩) = .ok (.decode [0x02#8]) := by decide

theorem test_decode_close : decode (.cmd ⟨0b00001100#8, 0#1, 5#32, [], []⟩) = .ok (.close 5#32) := by decide

theorem test_decode_reserved00 : decode (.cmd ⟨0b00000000#8, 1#1, 9#32, [0x01#8], []⟩) = .ok .reserved00 := by decide

theorem test_decode_reserved0D : decode (.cmd ⟨0b00001101#8, 0#1, 0#32, [], []⟩) = .ok .reserved0D := by decide

theorem test_decode_reserved0E : decode (.cmd ⟨0b00001111#8, 0#1, 0#32, [], []⟩) = .ok (.reserved0E 1#1) := by decide

theorem test_decode_reserved10 : decode (.cmd ⟨0b00011010#8, 0#1, 0#32, [], []⟩) = .ok (.reserved10 0b1010#4) := by
  decide

theorem test_decode_reserved20 : decode (.cmd ⟨0b00101011#8, 0#1, 0#32, [], []⟩) = .ok (.reserved20 0b01011#5) := by
  decide

theorem test_decode_reserved40 : decode (.cmd ⟨0b01100001#8, 0#1, 0#32, [], []⟩) = .ok (.reserved40 0b100001#6) := by
  decide

theorem test_decode_reserved80 : decode (.cmd ⟨0b11111111#8, 0#1, 0#32, [], []⟩) = .ok (.reserved80 0b1111111#7) := by
  decide

/-- V24's message. -/
theorem test_decode_msgReseed : decode (.msg [0x01#8, 0#8, 0#8, 0#8, 0xAA#8]) = .ok (.msgReseed [0xAA#8]) := by decide

/-- V22, first row. -/
theorem test_decode_msgData :
    decode (.msg [0x02#8, 0#8, 0#8, 0#8, 0xB5#8, 0xB3#8]) = .ok (.msgData [0xB5#8, 0xB3#8]) := by decide

/-- V22: all four tag bytes count. -/
theorem test_decode_msgUnrecognised :
    decode (.msg [0x02#8, 0#8, 0#8, 0x01#8]) = .ok (.msgUnrecognised 0x01000002#32 []) := by decide

/-- V18's frame. -/
theorem test_decode_frame :
    decode (.frame [0x02#8, 0#8, 0#8, 0#8, 0xAB#8, 0xCD#8]) = .ok (.frame [0xAB#8, 0xCD#8]) := by decide

theorem test_decode_txData : decode (.txData [0x6F#8]) = .ok (.txData [0x6F#8]) := by decide

theorem test_decode_rxDrain : decode (.rxDrain [0x09#8]) = .ok (.rxDrain [0x09#8]) := by decide

/-- Too few bytes for a tag, and bytes that are no single frame, are rejected by name. -/
theorem test_decode_rejects :
    decode (.msg [0x02#8, 0#8, 0#8]) = .error (.noTag [0x02#8, 0#8, 0#8]) ∧
    decode (.frame [0x02#8, 0#8, 0#8, 0#8, 0xAB#8]) = .error (.notOneFrame [0x02#8, 0#8, 0#8, 0#8, 0xAB#8]) := by decide

theorem test_table_words : decodeTableWord 8 0x0C = some (.close 0#32) ∧
    decodeTableWord 32 0x00000101 = some (.msgUnrecognised 257#32 []) ∧ decodeTableWord 16 0 = none := by decide

theorem test_fetch_word : step (State.reset.withFetchWord 8 0x02) = exec .status State.reset := by rfl

/-! ## The toy configurations -/

/-- T0, with a hash whose one digest is the byte that the vectors take `SeedExpand` to return, `0x5A`. -/
def toy : Cfg where
  lfsrs := [⟨3, [3, 1, 0]⟩, ⟨4, [4, 1, 0]⟩]
  k := 2
  m := 4
  sbox := [0x6, 0xB, 0x0, 0xD]
  addrMsbFirst := false
  hash := fun _ => [0x5A#8]
  hlen := 1
  demandEnc := fun _ _ _ => []
  framerCap := none

/-- T0C. -/
def toyCap : Cfg := { toy with framerCap := some 16 }

/-- T0R. -/
def toyMsb : Cfg := { toy with addrMsbFirst := true }

/-- T0Q. -/
def toyThree : Cfg := { toy with m := 3, sbox := [0x6, 0x3, 0x0, 0x5] }

/-- T1. -/
def toyHash : Cfg where
  lfsrs := [⟨5, [5, 2, 0]⟩, ⟨7, [7, 1, 0]⟩, ⟨8, [8, 4, 3, 2, 0]⟩]
  k := 3
  m := 4
  sbox := [0x3, 0xE, 0x9, 0x4, 0x0, 0xF, 0x6, 0xA]
  addrMsbFirst := false
  hash := fun x => [BitVec.ofNat 8 (x.map BitVec.toNat).sum, x.foldl (· ^^^ ·) 0#8]
  hlen := 2
  demandEnc := fun _ i _ => [BitVec.ofNat 8 i]
  framerCap := none

theorem toy_valid : toy.Valid where
  nl_pos := by decide
  width_pos := by decide
  taps_le := by decide
  taps_nodup := by decide
  m_pos := by decide
  sbox_length := by decide
  sbox_lt := by decide
  hlen_pos := by decide
  hash_length := by intro _; rfl
  cap_ge := by intro c h; cases h

theorem toyCap_valid : toyCap.Valid where
  nl_pos := by decide
  width_pos := by decide
  taps_le := by decide
  taps_nodup := by decide
  m_pos := by decide
  sbox_length := by decide
  sbox_lt := by decide
  hlen_pos := by decide
  hash_length := by intro _; rfl
  cap_ge := by intro c h; cases h; decide

/-- An empty, unseeded lane in XOR mode whose registers are zero. -/
def idleLane : LaneState := ⟨[0, 0], [], false, .xor⟩

/-- The lane after SEED under T0 (V5): what the vectors start from. -/
def toyLane : LaneState := ⟨[0b010, 0b1011], [], true, .xor⟩

/-- A toy block with its buffer, both lanes seeded. -/
def toyBlock (fbuf : List Byte) : Block := ⟨toyLane, toyLane, fbuf, .active, 0#4, 0#32⟩

def hello : List Byte := [0x68#8, 0x65#8, 0x6C#8, 0x6C#8, 0x6F#8]

def helloSent : List Byte := [0xB5#8, 0xB3#8, 0xD7#8, 0xD7#8, 0xD9#8]

/-! ## Vectors -/

theorem test_V1_lfsr_next : lfsrNext ⟨3, [3, 1, 0]⟩ 0b101 = (true, 0b001) ∧ lfsrNext ⟨3, [3, 1, 0]⟩ 0b011 = (false, 0b110) ∧
    lfsrNext ⟨4, [4, 1, 0]⟩ 0b1011 = (true, 0b0101) ∧ lfsrNext ⟨4, [4, 1, 0]⟩ 0b1111 = (true, 0b1101) := by decide

theorem test_V4_refill : refill toy toyLane = ⟨[0b011, 0b1010], [true, false, true, true], true, .xor⟩ := by decide

theorem test_V5_seed : cmdSeed toy .recv [0x61#8] [] ⟨idleLane, { idleLane with queue := [true, true] }, [], .active, 0, 0⟩ =
    (⟨idleLane, toyLane, [], .active, 0, 0⟩, ⟨0#8, 0#32, []⟩) := by decide

theorem test_V7_seed_expand :
    seedExpand toyHash [0x61#8, 0x62#8, 0x63#8] [0x01#8, 0x02#8] toyHash.demand = 0x29632A62 := by rfl

theorem test_V7_split : splitSeed toyHash.widths 0x29632A62 = [0x02, 0x53, 0x32] ∧
    splitSeed toyHash.widths 0x0101 = [0x01, 0x08, 0x00] := by decide

/-- The fifth refill of V9 and of V8. -/
theorem test_V9_address_order :
    refill toyMsb ⟨[0b100, 0b0001], [], true, .xor⟩ = ⟨[0b110, 0b0100], [false, false, false, false], true, .xor⟩ ∧
    refill toy ⟨[0b100, 0b0001], [], true, .xor⟩ = ⟨[0b110, 0b0100], [true, true, false, true], true, .xor⟩ := by decide

theorem test_V10_process : (cmdProcess toy .recv hello (toyBlock [])).2 = ⟨0#8, 0#32, helloSent⟩ := by decide

theorem test_V12_queue_carries_over : xorBuffer toyThree hello toyLane =
    ([0xC5#8, 0xDE#8, 0x01#8, 0x32#8, 0x32#8], ⟨[0b010, 0b0110], [true, true], true, .xor⟩) := by decide

theorem test_V13_next_bit_shares_the_queue : cmdNextBit toy .send (toyBlock []) =
      ({ toyBlock [] with send := ⟨[0b011, 0b1010], [false, true, true], true, .xor⟩ }, ⟨0#8, 1#32, []⟩) ∧
    xorBuffer toy [0#8] ⟨[0b011, 0b1010], [false, true, true], true, .xor⟩ =
      ([0x6E#8], ⟨[0b001, 0b1101], [true, true, false], true, .xor⟩) := by decide

theorem test_V15_push : (cmdPush toy [0x00#8, 0x00#8, 0x68#8] (toyBlock [0x05#8, 0x00#8])) =
    (toyBlock [0x05#8, 0#8, 0#8, 0#8, 0x68#8], ⟨0#8, 0#32, []⟩) := by decide

theorem test_V16_make : (cmdMake hello (toyBlock [])).2 =
    ⟨0#8, 0#32, [0x05#8, 0#8, 0#8, 0#8, 0x68#8, 0x65#8, 0x6C#8, 0x6C#8, 0x6F#8]⟩ := by decide

theorem test_V17_extract : cmdExtractOne toy (toyBlock [0#8, 0#8, 0#8, 0#8, 1#8, 0#8, 0#8, 0#8, 0xAA#8]) =
      (toyBlock [1#8, 0#8, 0#8, 0#8, 0xAA#8], ⟨0#8, 0#32, []⟩) ∧
    cmdExtractOne toy (toyBlock [0xFF#8, 0xFF#8, 0xFF#8, 0xFF#8, 0#8]) =
      (toyBlock [0xFF#8, 0xFF#8, 0xFF#8, 0xFF#8, 0#8], ⟨1#8, 0#32, []⟩) := by decide

theorem test_V20_capacity_fault : cmdExtractOne toyCap (toyBlock [0x0D#8, 0#8, 0#8, 0#8]) =
    ({ toyBlock [0x0D#8, 0#8, 0#8, 0#8] with run := .closed, cause := 1#4, info := 13#32 }, ⟨2#8, 1#32, []⟩) := by decide

theorem test_V20_push_refused : cmdPush toyCap (List.replicate 13 0#8) (toyBlock [0x0C#8, 0#8, 0#8, 0#8]) =
    (toyBlock [0x0C#8, 0#8, 0#8, 0#8], ⟨3#8, 4#32, []⟩) := by decide

theorem test_V21_encode : (cmdEncode 1#32 [0xAA#8] (toyBlock [])).2 = ⟨0#8, 0#32, [1#8, 0#8, 0#8, 0#8, 0xAA#8]⟩ ∧
    (cmdEncode 3#32 [] (toyBlock [])).2 = ⟨3#8, 6#32, []⟩ := by decide

theorem test_V22_decode : (cmdDecode [0x02#8, 0x01#8, 0#8, 0#8, 0x11#8] (toyBlock [])).1 =
      { toyBlock [] with run := .closed, cause := 2#4, info := 258#32 } ∧
    (cmdDecode [0x02#8, 0#8, 0#8] (toyBlock [])).1 =
      { toyBlock [] with run := .closed, cause := 1#4, info := 3#32 } := by decide

theorem test_V25_status : (cmdStatus ⟨toyLane, { idleLane with mode := .identity }, [], .active, 0#4, 0#32⟩).2 =
      ⟨0#8, 0x00000120#32, [0#8, 0#8, 0#8, 0#8]⟩ ∧
    (cmdStatus ⟨toyLane, idleLane, [], .closed, 5#4, 0#32⟩).2.info = 0x00000035#32 := by decide

theorem test_V26_close : (cmdClose 1#32 (toyBlock [])).2 = ⟨3#8, 6#32, []⟩ ∧
    cmdClose 5#32 { toyBlock [] with run := .closed, cause := 4#4 } =
      ({ toyBlock [] with run := .closed, cause := 4#4 }, ⟨3#8, 2#32, []⟩) := by decide

theorem test_V26_set_mode : (cmdSetMode .send 7#32 { toyBlock [] with run := .closed }).2 = ⟨3#8, 2#32, []⟩ ∧
    (cmdSetMode .send 7#32 (toyBlock [])).2 = ⟨3#8, 6#32, []⟩ := by decide

theorem test_V26_reserved_before_closed (s : State) :
    exec (.reserved80 0x7F#7) s = .next { s with answers := [⟨0xFF#8, ⟨3#8, 1#32, []⟩⟩] } := by rfl

/-- P3, lines 1 to 3 (V23). -/
theorem test_P3_tx_data : wireOf (relayTx toy hello (toyBlock [])).answers =
    some ([0x09#8, 0#8, 0#8, 0#8, 0x02#8, 0#8, 0#8, 0#8] ++ helloSent) := by decide

/-- P3, lines 9 to 13. -/
theorem test_P3_rx_drain : (relayRx toy ([0#8, 0#8] ++ helloSent ++ [0x06#8, 0#8])
      (toyBlock [0x09#8, 0#8, 0#8, 0#8, 0x02#8, 0#8])).answers =
    [⟨0x07#8, ⟨0#8, 0#32, []⟩⟩, ⟨0x08#8, ⟨0#8, 9#32, [0x02#8, 0#8, 0#8, 0#8] ++ helloSent⟩⟩,
     ⟨0x0B#8, ⟨0#8, 2#32, helloSent⟩⟩, ⟨0x06#8, ⟨0#8, 0#32, hello⟩⟩, ⟨0x08#8, ⟨1#8, 0#32, []⟩⟩] := by decide

/-- P4, lines 1 to 4: a received Reseed. R93: 18 bytes of two frames through a buffer of 16. -/
theorem test_P4_reseed_and_R93_capacity :
    (relayRx toy [5#8, 0#8, 0#8, 0#8, 1#8, 0#8, 0#8, 0#8, 0xAA#8] (toyBlock [])).block =
      { toyBlock [] with run := .closed, cause := 3#4, info := 0#32 } ∧
    outsOf (relayRx toyCap (dataOnWire [0xB5#8] ++ dataOnWire [0xB3#8]) (toyBlock [])).answers =
      [[0x68#8], [0x65#8]] := by decide

theorem test_R54_frame : (relayFrame toy [0xAB#8, 0xCD#8] (toyBlock [])).answers.map Answer.resp =
    [⟨0#8, 0#32, []⟩, ⟨0#8, 2#32, [0xAB#8, 0xCD#8]⟩] := by decide

/-! ## Witnesses: for each statement with hypotheses, a state and operands that meet them -/

/-- The reset state with one more input issued. -/
def issued (x : Input) : State := { State.reset with pending := [x] }

/-- A block that the host closed at end of stream. -/
def closedState : State := { State.reset with block := State.reset.block.closeWith .endOfStream 0#32 }

/-- Both lanes seeded, with eight bits queued, in a mode. -/
def keyed (m : Mode) : State :=
  let l : LaneState := ⟨[], List.replicate 8 true, true, m⟩
  { State.reset with block := { State.reset.block with send := l, recv := l } }

/-- The same with empty queues. -/
def drained : State :=
  let l : LaneState := ⟨[], [], true, .xor⟩
  { State.reset with block := { State.reset.block with send := l, recv := l } }

/-- A state whose lane SEND is not seeded and has these registers. -/
def unseededWith (regs : List Nat) : State :=
  { block := ⟨⟨regs, [], false, .xor⟩, toyLane, [], .active, 0#4, 0#32⟩, pending := [], answers := [] }

/-- The reset state with bytes in the framer buffer. -/
def holding (bytes : List Byte) : State := { State.reset with block := { State.reset.block with fbuf := bytes } }

theorem cap_at_least_five (n : Nat) (hn : n ≤ 5) (cap : Nat) (h : Config.config.framerCap = some cap) : n ≤ cap :=
  hn.trans (Config.config_valid.cap_ge cap h)

theorem witness_DecodeOfEncodeIsTheInstruction :
    (Instr.frame []).wellFormed = true ∧ (Instr.msgUnrecognised 0#32 []).wellFormed = true ∧
      (Instr.msgUnrecognised 3#32 []).wellFormed = true ∧ (Instr.msgUnrecognised 0xFFFFFFFF#32 []).wellFormed = true := by
  decide

theorem witness_StepRunsTheDecodedInstruction :
    (issued (.cmd (bareCmd 0x02#8))).pending = .cmd (bareCmd 0x02#8) :: [] ∧
      decode (.cmd (bareCmd 0x02#8)) = .ok .status := ⟨rfl, by decide⟩

theorem witness_IdleBlockHoldsItsState : State.reset.pending = [] := rfl

theorem reset_lane_inv (c : Lane) : LaneInv Config.config (resetLane Config.config c) :=
  ⟨by simp [resetLane, unseededRegs, Cfg.nl], fun h => by simp at h, by simp, fun _ => rfl⟩

theorem witness_EveryStepKeepsTheInvariant :
    (issued (.cmd ⟨0x0C#8, 0#1, 4#32, [], []⟩)).Inv ∧
      ∃ t, step (issued (.cmd ⟨0x0C#8, 0#1, 4#32, [], []⟩)) = .next t :=
  ⟨⟨reset_lane_inv .send, reset_lane_inv .recv, fun _ _ => Nat.zero_le _, by decide, fun _ => rfl⟩, _, rfl⟩

/-- One command for each of the four ways, and the response it gets. -/
theorem witness_EveryCommandEndsInOneOfFourWays :
    (step (issued (.cmd (bareCmd 0x02#8))) = .next { State.reset with answers := [⟨0x02#8, ⟨0#8, 0#32, [0, 0, 0, 0]⟩⟩] }) ∧
    (step (issued (.cmd (bareCmd 0x08#8))) = .next { State.reset with answers := [⟨0x08#8, ⟨1#8, 0#32, []⟩⟩] }) ∧
    (∃ t, step (issued (.cmd (bareCmd 0x0B#8))) = .next t ∧ t.answers = [⟨0x0B#8, ⟨2#8, 1#32, []⟩⟩]) ∧
    (step (issued (.cmd (bareCmd 0x05#8))) = .next { State.reset with answers := [⟨0x05#8, ⟨3#8, 3#32, []⟩⟩] }) :=
  ⟨rfl, rfl, ⟨_, rfl, rfl⟩, rfl⟩

theorem witness_ClosedBlockRefusesCommands :
    ({ closedState with pending := [.cmd (bareCmd 0x0C#8)] } : State).block.run = .closed ∧
      3 ≤ (bareCmd 0x03#8).op.toNat ∧ (bareCmd 0x0C#8).op.toNat ≤ 12 := by decide

theorem witness_ReservedOpCodesAreRefused :
    (issued (.cmd (bareCmd 0x00#8))).pending = .cmd (bareCmd 0x00#8) :: [] ∧
      (bareCmd 0x00#8).op.toNat = 0 ∧ 13 ≤ (bareCmd 0x0D#8).op.toNat ∧ 13 ≤ (bareCmd 0xFF#8).op.toNat :=
  ⟨rfl, by decide⟩

theorem witness_OnlyResetChangesAClosedBlock :
    closedState.block.run = .closed ∧ Instr.status ≠ .reset ∧ ∃ t, exec .status closedState = .next t :=
  ⟨rfl, by decide, _, rfl⟩

/-- SEED sets SEEDED, RESET clears it, SET_MODE changes MODE. -/
theorem witness_OnlySeedSetModeAndResetChangeFlags :
    (∃ t, exec (.seed .send [] []) State.reset = .next t ∧ (t.block.lane .send).seeded ≠ (State.reset.block.lane .send).seeded) ∧
    (∃ t, exec .reset (keyed .xor) = .next t ∧ (t.block.lane .recv).seeded = false ∧
      ((keyed .xor).block.lane .recv).seeded = true) ∧
    (∃ t, exec (.setMode .recv 1#32) State.reset = .next t ∧
      (t.block.lane .recv).mode ≠ (State.reset.block.lane .recv).mode) :=
  ⟨⟨_, rfl, by decide⟩, ⟨_, rfl, rfl, rfl⟩, ⟨_, rfl, by decide⟩⟩

/-- NEXT_BIT changes a queue, RESET empties a buffer. -/
theorem witness_OnlyItsOwnCommandsChangeALaneOrTheBuffer :
    (∃ t, exec (.nextBit .send) (keyed .xor) = .next t ∧ (t.block.lane .send).queue ≠ ((keyed .xor).block.lane .send).queue) ∧
    (∃ t, exec .reset (holding [1#8]) = .next t ∧ t.block.fbuf ≠ (holding [1#8]).block.fbuf) :=
  ⟨⟨_, rfl, by decide⟩, ⟨_, rfl, by decide⟩⟩

theorem witness_LanesAreIndependent :
    Lane.recv ≠ .send ∧ State.reset.block.lane .send = (holding [1#8]).block.lane .send ∧
      State.reset.block.run = (holding [1#8]).block.run ∧
      (∃ t, exec (.process .send [0x41#8]) State.reset = .next t) ∧
      ∃ t, exec (.process .send [0x41#8]) (holding [1#8]) = .next t :=
  ⟨by decide, rfl, rfl, ⟨_, rfl⟩, ⟨_, rfl⟩⟩

/-- 3 and 5 are the ends of the legal operands, 2 and 6 their neighbours. -/
theorem witness_CloseRecordsTheHostEvent :
    State.reset.block.run = .active ∧ closedState.block.run = .closed ∧
      (3#32 = 3#32 ∨ 3#32 = 4#32 ∨ 3#32 = 5#32) ∧ (5#32 = 3#32 ∨ 5#32 = 4#32 ∨ 5#32 = 5#32) ∧
      ¬(2#32 = 3#32 ∨ 2#32 = 4#32 ∨ 2#32 = 5#32) ∧ ¬(6#32 = 3#32 ∨ 6#32 = 4#32 ∨ 6#32 = 5#32) :=
  ⟨rfl, rfl, by decide⟩

theorem witness_LfsrStepShiftsThenXors :
    1 ≤ (Lfsr.mk 3 [3, 1, 0]).width ∧ 0b111 < 2 ^ (Lfsr.mk 3 [3, 1, 0]).width ∧ 0b011 < 2 ^ (Lfsr.mk 3 [3, 1, 0]).width ∧
      1 ≤ (Lfsr.mk 1 [1, 0]).width ∧ 1 < 2 ^ (Lfsr.mk 1 [1, 0]).width := by decide

theorem witness_LfsrStepCornerCases :
    (Lfsr.mk 1 [0]).width = 1 ∧ (Lfsr.mk 3 [3]).polyLow = 0 ∧ 7 < 2 ^ (Lfsr.mk 3 [3]).width ∧
      toyLane.lfsr.length = toy.lfsrs.length := by decide

theorem witness_RefillLooksUpOneSboxEntry : toy.Valid ∧ toyLane.lfsr.length = toy.nl := ⟨toy_valid, rfl⟩

theorem witness_SeedSplitsTheSeedInteger : State.reset.block.run = .active ∧ closedState.block.run = .closed := ⟨rfl, rfl⟩

/-- The first width of the configuration is at index 0, and there is one. -/
theorem witness_SeedSplitsTheSeedInteger_width : ∃ w, Config.config.widths[0]? = some w := by
  have h := Config.config_valid.nl_pos
  have : 0 < Config.config.widths.length := by simp only [Cfg.widths, List.length_map]; exact h
  exact ⟨_, List.getElem?_eq_getElem this⟩

theorem witness_SeedExpansionMeetsTheDemand : toyCap.Valid := toyCap_valid

theorem witness_SeedSeesOnlyTheConcatenation :
    ([0x61#8, 0x62#8] : List Byte) ++ [0x63#8] = [0x61#8] ++ [0x62#8, 0x63#8] := rfl

/-- The two refusals, the queue's head, and an empty queue. -/
theorem witness_NextBitReturnsTheQueueHead :
    closedState.block.run = .closed ∧ State.reset.block.run = .active ∧ (State.reset.block.lane .send).seeded = false ∧
      (keyed .xor).block.run = .active ∧ ((keyed .identity).block.lane .send).seeded = true ∧
      ((keyed .xor).block.lane .send).queue ≠ [] ∧ drained.block.run = .active ∧
      (drained.block.lane .send).seeded = true ∧ (drained.block.lane .send).queue = [] :=
  ⟨rfl, rfl, rfl, rfl, rfl, by decide, rfl, rfl, rfl⟩

/-- An unseeded lane; and two states that differ in the registers of one. -/
theorem witness_UnseededLaneIsRefused :
    State.reset.block.run = .active ∧ (State.reset.block.lane .recv).seeded = false ∧
      (State.reset.block.lane .recv).mode = .xor ∧ unseededWith [0, 0] ≠ unseededWith [5, 9] ∧
      (unseededWith [0, 0]).pending = (unseededWith [5, 9]).pending ∧
      (unseededWith [0, 0]).block.masked = (unseededWith [5, 9]).block.masked :=
  ⟨rfl, rfl, rfl, by decide, by decide, by decide⟩

theorem witness_SeededKeystreamIsDeterministic : (keyed .identity).block.run = .active := rfl

theorem witness_KeystreamIsEventuallyPeriodic : toy.Valid := toy_valid

theorem witness_SetModeWritesTheModeAlone :
    closedState.block.run = .closed ∧ State.reset.block.run = .active ∧ 2#32 ≠ 0#32 ∧ 2#32 ≠ 1#32 ∧
      0xFFFFFFFF#32 ≠ 0#32 ∧ 0xFFFFFFFF#32 ≠ 1#32 := ⟨rfl, rfl, by decide⟩

/-- The four cases: CLOSED, IDENTITY, unseeded, seeded. -/
theorem witness_ProcessXorsKeystreamBits :
    closedState.block.run = .closed ∧ ((keyed .identity).block.lane .send).mode = .identity ∧
      (State.reset.block.lane .send).mode = .xor ∧ (State.reset.block.lane .send).seeded = false ∧
      drained.block.run = .active ∧ (drained.block.lane .send).mode = .xor ∧ (drained.block.lane .send).seeded = true ∧
      7 < 8 ∧ hello[0]? = some 0x68#8 ∧ helloSent[0]? = some 0xB5#8 := ⟨rfl, rfl, rfl, rfl, rfl, rfl, rfl, by decide⟩

theorem witness_IdentityLaneReturnsItsInput :
    (keyed .identity).block.run = .active ∧ ((keyed .identity).block.lane .recv).mode = .identity := ⟨rfl, rfl⟩

theorem witness_ProcessSplitsAtAnyByte :
    drained.block.run = .active ∧ (drained.block.lane .send).seeded = true ∧
      (keyed .identity).block.run = .active ∧ ((keyed .identity).block.lane .send).mode = .identity := ⟨rfl, rfl, rfl, rfl⟩

theorem witness_KeystreamIgnoresTheData : hello.length = helloSent.length := rfl

theorem witness_ByteTakesTwoRefillsWhenEntriesAreNibbles :
    toy.Valid ∧ toy.m = 4 ∧ toyLane.lfsr.length = toy.nl ∧ toyLane.queue = [] := ⟨toy_valid, rfl, rfl, rfl⟩

/-- Eight one bits are queued: `0x68` leaves as its complement, one byte in one piece, and comes back in two. -/
theorem witness_ProcessIsItsOwnInverseOnThePeerLane :
    (keyed .xor).block.run = .active ∧ ((keyed .xor).block.lane .send).mode = .xor ∧
      ((keyed .xor).block.lane .recv).seeded = true ∧
      sameKeystream ((keyed .xor).block.lane .send) ((keyed .xor).block.lane .recv) ∧
      ∃ t as, runAll ([[0x68#8]].map (.process .send)) (keyed .xor) = some (t, as) ∧
        ([[0x97#8], []] : List (List Byte)).flatten = (as.map fun a => a.resp.out).flatten :=
  ⟨rfl, rfl, rfl, ⟨rfl, rfl⟩, _, _, rfl, rfl⟩

theorem witness_PushAppendsOrIsRefusedWhole :
    closedState.block.run = .closed ∧ State.reset.block.run = .active ∧
      ∀ cap, Config.config.framerCap = some cap → State.reset.block.fbuf.length + ([1#8] : List Byte).length ≤ cap :=
  ⟨rfl, rfl, cap_at_least_five 1 (by decide)⟩

/-- Three bytes; a whole empty frame; a frame of one byte that is not whole, and the whole one. (The length over a
finite capacity is met under a configuration that has one: `witness_OversizeLengthIsAFramingFault`.) -/
theorem witness_ExtractOneTakesOneWholeFrame :
    closedState.block.run = .closed ∧ (holding [1#8, 0#8, 0#8]).block.run = .active ∧ (holding [1#8, 0#8, 0#8]).block.fbuf.length < 4 ∧
      (holding [0#8, 0#8, 0#8, 0#8]).block.fbuf = le32 0 ++ [] ∧
      (holding [1#8, 0#8, 0#8, 0#8]).block.fbuf = le32 1 ++ [] ∧
      (holding [1#8, 0#8, 0#8, 0#8, 0xAA#8]).block.fbuf = le32 1 ++ [0xAA#8] ∧
      ∀ cap, Config.config.framerCap = some cap → 4 + 1 ≤ cap :=
  ⟨rfl, rfl, by decide, rfl, rfl, rfl, cap_at_least_five 5 (by decide)⟩

/-- 13 is the least length over a capacity of 16. -/
theorem witness_OversizeLengthIsAFramingFault :
    toyCap.framerCap = some 16 ∧ (toyBlock [0x0D#8, 0#8, 0#8, 0#8]).run = .active ∧ 13 < 2 ^ 32 ∧ 16 < 4 + 13 ∧
      (toyBlock [0x0D#8, 0#8, 0#8, 0#8]).fbuf = le32 13 ++ [] := ⟨rfl, rfl, by decide, by decide, rfl⟩

/-- A buffer of 15 of 16 bytes whose frame needs all 16. -/
theorem witness_DrainedBufferHasRoom :
    toyCap.Valid ∧ toyCap.framerCap = some 16 ∧
      (cmdExtractOne toyCap (toyBlock ([0x0C#8, 0#8, 0#8, 0#8] ++ List.replicate 11 0#8))).2.status = 1#8 :=
  ⟨toyCap_valid, rfl, by decide⟩

theorem witness_MakeFramesThePayload :
    closedState.block.run = .closed ∧ State.reset.block.run = .active ∧ ([] : List Byte).length < 2 ^ 32 ∧
      (List.replicate (2 ^ 32 - 1) 0#8).length < 2 ^ 32 ∧ 2 ^ 32 ≤ (List.replicate (2 ^ 32) 0#8).length :=
  ⟨rfl, rfl, by decide, by rw [List.length_replicate]; decide, by rw [List.length_replicate]⟩

theorem witness_FramingRoundTrip :
    State.reset.block.run = .active ∧ State.reset.block.fbuf = [] ∧ ([0xAA#8] : List Byte).length < 2 ^ 32 ∧
      ∀ cap, Config.config.framerCap = some cap → 4 + ([0xAA#8] : List Byte).length ≤ cap :=
  ⟨rfl, rfl, by decide, cap_at_least_five 5 (by decide)⟩

/-- The frame of `[AA]`, cut inside its length and before its payload. -/
theorem witness_SplitFrameIsReassembledOnce :
    State.reset.block.run = .active ∧ State.reset.block.fbuf = [] ∧ ([0xAA#8] : List Byte).length < 2 ^ 32 ∧
      (∀ cap, Config.config.framerCap = some cap → 4 + ([0xAA#8] : List Byte).length ≤ cap) ∧
      ([[1#8, 0#8, 0#8], [], [0#8], [0xAA#8]] : List (List Byte)).flatten = frameBytes [0xAA#8] :=
  ⟨rfl, rfl, by decide, cap_at_least_five 5 (by decide), rfl⟩

theorem witness_ConcatenatedFramesComeOutInOrder :
    (holding [1#8, 0#8, 0#8, 0#8, 0x11#8, 0#8, 0#8, 0#8, 0#8]).block.run = .active ∧
      (holding [1#8, 0#8, 0#8, 0#8, 0x11#8, 0#8, 0#8, 0#8, 0#8]).block.fbuf =
        (([[0x11#8], []] : List (List Byte)).map frameBytes).flatten ∧
      ∀ p ∈ ([[0x11#8], []] : List (List Byte)),
        p.length < 2 ^ 32 ∧ ∀ cap, Config.config.framerCap = some cap → 4 + p.length ≤ cap := by
  refine ⟨rfl, rfl, fun p hp => ?_⟩
  have hl : p.length ≤ 1 := by
    rcases List.mem_pair.mp hp with rfl | rfl <;> decide
  exact ⟨by omega, fun cap hc => cap_at_least_five (4 + p.length) (by omega) cap hc⟩

theorem witness_FrameRowDeliversItsPayload :
    State.reset.block.run = .active ∧ State.reset.block.fbuf = [] ∧ ([] : List Byte).length < 2 ^ 32 ∧
      ∀ cap, Config.config.framerCap = some cap → 4 + ([] : List Byte).length ≤ cap :=
  ⟨rfl, rfl, by decide, cap_at_least_five 4 (by decide)⟩

theorem witness_EncodeTagsTheBody :
    closedState.block.run = .closed ∧ State.reset.block.run = .active ∧ (1#32 = 1#32 ∨ 1#32 = 2#32) ∧ (2#32 = 1#32 ∨ 2#32 = 2#32) ∧
      ¬(0#32 = 1#32 ∨ 0#32 = 2#32) ∧ ¬(3#32 = 1#32 ∨ 3#32 = 2#32) := ⟨rfl, rfl, by decide⟩

theorem witness_DecodeDispatchesOnTheTag :
    closedState.block.run = .closed ∧ State.reset.block.run = .active ∧ (2#32 = 1#32 ∨ 2#32 = 2#32) ∧ ¬(0#32 = 1#32 ∨ 0#32 = 2#32) ∧
      ¬(3#32 = 1#32 ∨ 3#32 = 2#32) ∧ ([2#8, 0#8, 0#8] : List Byte).length < 4 := ⟨rfl, rfl, by decide⟩

theorem witness_MessageRowsAreDecoded :
    closedState.block.run = .closed ∧ State.reset.block.run = .active ∧ 0#32 ≠ 1#32 ∧ 0#32 ≠ 2#32 ∧ 3#32 ≠ 1#32 ∧
      3#32 ≠ 2#32 := ⟨rfl, rfl, by decide⟩

theorem witness_CodecRoundTrip :
    State.reset.block.run = .active ∧
      (∃ t, exec (.encode 2#32 [0xB5#8]) State.reset = .next t ∧
        t.answers = [⟨0x0A#8, ⟨0#8, 0#32, [2#8, 0#8, 0#8, 0#8, 0xB5#8]⟩⟩]) ∧
      ∃ t, exec (.decode [1#8, 0#8, 0#8, 0#8, 0xAA#8]) State.reset = .next t ∧
        t.answers = [⟨0x0B#8, ⟨0#8, 1#32, [0xAA#8]⟩⟩] := ⟨rfl, ⟨_, rfl, rfl⟩, ⟨_, rfl, rfl⟩⟩

theorem witness_TxDataSendsOneDataFrame :
    (keyed .xor).block.run = .active ∧ ([0x68#8] : List Byte) ≠ [] ∧ ([0x68#8] : List Byte).length + 4 < 2 ^ 32 ∧
      ((keyed .xor).block.lane .send).accepts ∧ ((keyed .identity).block.lane .send).accepts :=
  ⟨rfl, by decide, by decide, .inr rfl, .inl rfl⟩

/-- The least length that is too long. -/
theorem witness_TxDataTooLongAdvancesTheLane :
    (keyed .xor).block.run = .active ∧ 2 ^ 32 ≤ (List.replicate (2 ^ 32 - 4) 0#8).length + 4 ∧
      ((keyed .xor).block.lane .send).accepts :=
  ⟨rfl, by rw [List.length_replicate]; decide, .inr rfl⟩

/-- Each script's first command refused; then, under a capacity of 16, the shortest frame that does not fit, and the
longest Data message that does. -/
theorem witness_ScriptsStopAtARefusal :
    closedState.block.run = .closed ∧ State.reset.block.run = .active ∧ State.reset.block.send.mode = .xor ∧
      State.reset.block.send.seeded = false ∧ ([0x41#8] : List Byte) ≠ [] ∧
      toyCap.framerCap = some 16 ∧ 16 < (toyBlock []).fbuf.length + (4 + (List.replicate 13 0#8).length) ∧
      ({ toyBlock [] with recv := idleLane } : Block).run = .active ∧
      ({ toyBlock [] with recv := idleLane } : Block).recv.mode = .xor ∧
      ({ toyBlock [] with recv := idleLane } : Block).recv.seeded = false ∧
      capAdmits toyCap ((dataOnWire (List.replicate 8 0#8)).length + ([] : List Byte).length) = true :=
  ⟨rfl, rfl, rfl, rfl, by decide, rfl, by decide, rfl, rfl, rfl, by decide⟩

theorem witness_TxDataOfNothingIsEndOfStream : State.reset.block.run = .active := rfl

/-- In XOR mode, and in IDENTITY mode; the configuration's capacity decides between the two conclusions. -/
theorem witness_RxDrainDeliversADataMessage :
    (keyed .xor).block.run = .active ∧ (keyed .xor).block.fbuf = [] ∧ ([0x97#8] : List Byte).length + 4 < 2 ^ 32 ∧
      ((keyed .xor).block.lane .recv).accepts ∧ ((keyed .identity).block.lane .recv).accepts :=
  ⟨rfl, rfl, by decide, .inr rfl, .inl rfl⟩

/-- Under a capacity of 16 a body of 8 bytes is the longest that is delivered, and one of 9 is a fault. -/
theorem witness_RxDrainDeliversADataMessage_capacity :
    (∀ cap, toyCap.framerCap = some cap → 8 + (List.replicate 8 0#8).length ≤ cap) ∧
      toyCap.framerCap = some 16 ∧ 16 < 8 + (List.replicate 9 0#8).length :=
  ⟨by intro cap h; cases h; decide, rfl, by decide⟩

theorem witness_RxDrainOfNothingChangesNothing : State.reset.block.run = .active ∧ State.reset.block.fbuf = [] :=
  ⟨rfl, rfl⟩

theorem witness_ReceivedReseedIsFatal :
    toyCap.Valid ∧ (toyBlock []).run = .active ∧ (toyBlock []).fbuf = [] ∧ ([0xAA#8] : List Byte).length + 4 < 2 ^ 32 ∧
      capAdmits toyCap ((frameBytes (le32 1 ++ [0xAA#8])).length + (List.replicate 7 0#8).length) = true :=
  ⟨toyCap_valid, rfl, rfl, by decide, by decide⟩

/-- A full buffer is within the capacity; and the two refusals, on a CLOSED block and on an unseeded lane. -/
theorem witness_RxDrainEndsOnlyWhenDrained :
    toyCap.Valid ∧
      (∀ cap, toyCap.framerCap = some cap → (toyBlock (List.replicate 16 0#8)).fbuf.length ≤ cap) ∧
      (relayRx toyCap [0#8] { toyBlock (List.replicate 16 0#8) with run := .closed }).answers.getLast? =
        some ⟨0x07#8, ⟨3#8, 2#32, []⟩⟩ ∧
      (relayRx toyCap (dataOnWire [0xAA#8]) { toyBlock [] with recv := idleLane }).answers.getLast? =
        some ⟨0x06#8, ⟨3#8, 3#32, []⟩⟩ :=
  ⟨toyCap_valid, by intro cap h; cases h; decide, by decide, by decide⟩

/-- After one Data message, within a capacity of 24: a Reseed, tag 0 and tag 3, an empty payload and one of three bytes,
and the least length over the capacity. -/
theorem witness_EarlierMessagesStayDelivered :
    ({ toy with framerCap := some 24 } : Cfg).framerCap = some 24 ∧ (toyBlock []).run = .active ∧
      (toyBlock []).fbuf = [] ∧ (toyBlock []).recv.accepts ∧
      (∀ m ∈ ([[0xB5#8]] : List (List Byte)), m.length + 4 < 2 ^ 32) ∧
      capAdmits { toy with framerCap := some 24 }
        ((([[0xB5#8]] : List (List Byte)).map dataOnWire).flatten.length +
          (frameBytes (le32 1 ++ [0xAA#8]) ++ [0x07#8]).length) = true ∧
      0#32 ≠ 1#32 ∧ 0#32 ≠ 2#32 ∧ 3#32 ≠ 1#32 ∧ 3#32 ≠ 2#32 ∧ ([] : List Byte).length < 4 ∧
      ([1#8, 0#8, 0#8] : List Byte).length < 4 ∧ 21 < 2 ^ 32 ∧ 24 < 4 + 21 :=
  ⟨rfl, rfl, rfl, .inr rfl, by decide, by decide, by decide⟩

theorem witness_EarlierMessagesStayDelivered_valid : ({ toy with framerCap := some 24 } : Cfg).Valid :=
  { toy_valid with cap_ge := by intro c h; cases h; decide }

/-- One message of one byte, its nine bytes cut inside the length and inside the tag. -/
theorem witness_TunnelRelaysEveryMessage :
    toy.Valid ∧ (toyBlock []).run = .active ∧ (toyBlock []).fbuf = [] ∧
      paired ((toyBlock []).lane .send) ((toyBlock []).lane .recv) ∧
      (∀ m ∈ [[0x68#8]], m ≠ [] ∧ m.length + 4 < 2 ^ 32 ∧ capAdmits toy (8 + m.length) = true) ∧
      ([[5#8, 0#8], [0#8, 0#8, 2#8, 0#8, 0#8], [0#8, 0xB5#8]] : List (List Byte)).flatten =
        (okOutputs 0x09#8 (txAll toy [[0x68#8]] (toyBlock [])).2).flatten :=
  ⟨toy_valid, rfl, rfl, ⟨rfl, fun _ => ⟨rfl, rfl, rfl, rfl⟩⟩, by decide, by decide⟩

end Sys2Proof.Tests
end

/-! SUPPORT. The commands a block can be given, as data, and which of them each instruction issues. A lane command is
a function of its own lane and of `STATE` alone (10_state.md R35), so it is given by what it does to a lane; the ties to
the model are the `cmd*_eq` lemmas and `exec_cases` here, and `exec_agree` in the next part. -/

namespace Sys2Proof.Machine

/-- The commands that work on one lane. -/
inductive LaneCmd where
  | setMode (arg : Word32)
  | seed (secret iv : List Byte)
  | nextBit
  | process (buf : List Byte)

/-- What a lane command does to its lane, on an ACTIVE block (R75, R78, R83, R84). -/
def LaneCmd.run (cfg : Cfg) : LaneCmd → LaneState → LaneState × Resp
  | .setMode arg, l =>
    match modeOperand arg with
    | none => (l, refusedResp .badOperand)
    | some m => ({ l with mode := m }, okResp 0#32 [])
  | .seed secret iv, l => (seedLane cfg secret iv l, okResp 0#32 [])
  | .nextBit, l =>
    match l.seeded with
    | false => (l, refusedResp .notSeeded)
    | true => ((kbit cfg l).2, okResp (BitVec.ofNat 32 (bitVal (kbit cfg l).1)) [])
  | .process buf, l =>
    match l.mode, l.seeded with
    | .identity, _ => (l, okResp 0#32 buf)
    | .xor, false => (l, refusedResp .notSeeded)
    | .xor, true => ((xorBuffer cfg buf l).2, okResp 0#32 (xorBuffer cfg buf l).1)

/-- A lane operation as an operation on the block that holds the lane. -/
def Block.onLane (b : Block) (c : Lane) (f : LaneState → LaneState × Resp) : Block × Resp :=
  (b.setLane c (f (b.lane c)).1, (f (b.lane c)).2)

/-- Every command of R59, with the refusal of the reserved op codes (R65). -/
inductive Command where
  | reset
  | status
  | lane (c : Lane) (k : LaneCmd)
  | push (bytes : List Byte)
  | extractOne
  | make (payload : List Byte)
  | encode (arg : Word32) (body : List Byte)
  | decode (msg : List Byte)
  | close (arg : Word32)
  | reserved

/-- What a command does to a block, and its response. -/
def Command.run (cfg : Cfg) : Command → Block → Block × Resp
  | .reset, b => cmdReset cfg b
  | .status, b => cmdStatus b
  | .lane c k, b => whenActive b (b.onLane c (k.run cfg))
  | .push bytes, b => cmdPush cfg bytes b
  | .extractOne, b => cmdExtractOne cfg b
  | .make payload, b => cmdMake payload b
  | .encode arg body, b => cmdEncode arg body b
  | .decode msg, b => cmdDecode msg b
  | .close arg, b => cmdClose arg b
  | .reserved, b => cmdReserved b

section Ties

variable (cfg : Cfg) (c : Lane)

theorem cmdSetMode_eq (arg : Word32) : cmdSetMode c arg = (Command.lane c (.setMode arg)).run cfg := by
  funext b
  cases h : modeOperand arg <;> simp [cmdSetMode, Command.run, Block.onLane, LaneCmd.run, refuse, h]

theorem cmdSeed_eq (secret iv : List Byte) : cmdSeed cfg c secret iv = (Command.lane c (.seed secret iv)).run cfg := rfl

theorem cmdNextBit_eq : cmdNextBit cfg c = (Command.lane c .nextBit).run cfg := by
  funext b
  cases h : (b.lane c).seeded <;> simp [cmdNextBit, Command.run, Block.onLane, LaneCmd.run, refuse, h]

theorem cmdProcess_eq (buf : List Byte) : cmdProcess cfg c buf = (Command.lane c (.process buf)).run cfg := by
  funext b
  cases hm : (b.lane c).mode with
  | identity => simp [cmdProcess, Command.run, Block.onLane, LaneCmd.run, hm]
  | xor => cases hs : (b.lane c).seeded <;> simp [cmdProcess, Command.run, Block.onLane, LaneCmd.run, refuse, hm, hs]

end Ties

/-- Which commands an instruction may issue: itself, or, for the wire formats and the scripts, those of R54, R103,
R112 and R114, with any operand. -/
inductive Issues : Instr → Command → Prop where
  | reset : Issues .reset .reset
  | status : Issues .status .status
  | setMode (c : Lane) (arg : Word32) : Issues (.setMode c arg) (.lane c (.setMode arg))
  | seed (c : Lane) (secret iv : List Byte) : Issues (.seed c secret iv) (.lane c (.seed secret iv))
  | nextBit (c : Lane) : Issues (.nextBit c) (.lane c .nextBit)
  | process (c : Lane) (buf : List Byte) : Issues (.process c buf) (.lane c (.process buf))
  | push (bytes : List Byte) : Issues (.push bytes) (.push bytes)
  | extractOne : Issues .extractOne .extractOne
  | make (payload : List Byte) : Issues (.make payload) (.make payload)
  | encode (arg : Word32) (body : List Byte) : Issues (.encode arg body) (.encode arg body)
  | decode (msg : List Byte) : Issues (.decode msg) (.decode msg)
  | close (arg : Word32) : Issues (.close arg) (.close arg)
  | reserved (i : Instr) (h : isReserved i = true) : Issues i .reserved
  | msgReseed (body : List Byte) : Issues (.msgReseed body) (.decode (le32 tagReseed ++ body))
  | msgData (body : List Byte) : Issues (.msgData body) (.decode (le32 tagData ++ body))
  | msgUnrecognised (tag : Word32) (body : List Byte) :
      Issues (.msgUnrecognised tag body) (.decode (le32 tag.toNat ++ body))
  | framePush (payload bytes : List Byte) : Issues (.frame payload) (.push bytes)
  | frameExtractOne (payload : List Byte) : Issues (.frame payload) .extractOne
  | txProcess (bytes buf : List Byte) : Issues (.txData bytes) (.lane .send (.process buf))
  | txEncode (bytes : List Byte) (arg : Word32) (body : List Byte) : Issues (.txData bytes) (.encode arg body)
  | txMake (bytes payload : List Byte) : Issues (.txData bytes) (.make payload)
  | txClose (bytes : List Byte) (arg : Word32) : Issues (.txData bytes) (.close arg)
  | rxPush (bytes part : List Byte) : Issues (.rxDrain bytes) (.push part)
  | rxExtractOne (bytes : List Byte) : Issues (.rxDrain bytes) .extractOne
  | rxDecode (bytes msg : List Byte) : Issues (.rxDrain bytes) (.decode msg)
  | rxProcess (bytes buf : List Byte) : Issues (.rxDrain bytes) (.lane .recv (.process buf))
  | rxClose (bytes : List Byte) (arg : Word32) : Issues (.rxDrain bytes) (.close arg)

section Exec

variable (c : Lane) (s : State)

theorem exec_setMode (arg : Word32) : exec (.setMode c arg) s =
    .next (s.commit opSetMode ((Command.lane c (.setMode arg)).run Config.config s.block)) := by
  rw [← cmdSetMode_eq]; rfl

theorem exec_seed (secret iv : List Byte) : exec (.seed c secret iv) s =
    .next (s.commit opSeed ((Command.lane c (.seed secret iv)).run Config.config s.block)) := by
  rw [← cmdSeed_eq]; rfl

theorem exec_nextBit : exec (.nextBit c) s =
    .next (s.commit opNextBit ((Command.lane c .nextBit).run Config.config s.block)) := by
  rw [← cmdNextBit_eq]; rfl

theorem exec_process (buf : List Byte) : exec (.process c buf) s =
    .next (s.commit opProcess ((Command.lane c (.process buf)).run Config.config s.block)) := by
  rw [← cmdProcess_eq]; rfl

end Exec

/-- SET_MODE, SEED, NEXT_BIT and PROCESS are lane commands, each answered under its op code. -/
theorem exec_laneCommand {i : Instr} {c : Lane} (hi : (∃ arg, i = .setMode c arg) ∨
    (∃ secret iv, i = .seed c secret iv) ∨ i = .nextBit c ∨ ∃ buf, i = .process c buf) :
    ∃ op j, ∀ s, exec i s = .next (s.commit op ((Command.lane c j).run Config.config s.block)) := by
  rcases hi with ⟨arg, rfl⟩ | ⟨secret, iv, rfl⟩ | rfl | ⟨buf, rfl⟩
  · exact ⟨_, _, fun s => exec_setMode c s arg⟩
  · exact ⟨_, _, fun s => exec_seed c s secret iv⟩
  · exact ⟨_, _, fun s => exec_nextBit c s⟩
  · exact ⟨_, _, fun s => exec_process c s buf⟩

/-- An instruction is one command, answered under one op code, or one of the three that issue several. -/
theorem exec_cases (i : Instr) :
    (∃ op k, Issues i k ∧ ∀ s, exec i s = .next (s.commit op (k.run Config.config s.block))) ∨
    (∃ payload, i = .frame payload) ∨ (∃ bytes, i = .txData bytes) ∨ ∃ bytes, i = .rxDrain bytes := by
  cases i with
  | reset => exact .inl ⟨_, _, .reset, fun _ => rfl⟩
  | status => exact .inl ⟨_, _, .status, fun _ => rfl⟩
  | setMode c arg => exact .inl ⟨_, _, .setMode c arg, fun s => exec_setMode c s arg⟩
  | seed c secret iv => exact .inl ⟨_, _, .seed c secret iv, fun s => exec_seed c s secret iv⟩
  | nextBit c => exact .inl ⟨_, _, .nextBit c, fun s => exec_nextBit c s⟩
  | process c buf => exact .inl ⟨_, _, .process c buf, fun s => exec_process c s buf⟩
  | push bytes => exact .inl ⟨_, _, .push bytes, fun _ => rfl⟩
  | extractOne => exact .inl ⟨_, _, .extractOne, fun _ => rfl⟩
  | make payload => exact .inl ⟨_, _, .make payload, fun _ => rfl⟩
  | encode arg body => exact .inl ⟨_, _, .encode arg body, fun _ => rfl⟩
  | decode msg => exact .inl ⟨_, _, .decode msg, fun _ => rfl⟩
  | close arg => exact .inl ⟨_, _, .close arg, fun _ => rfl⟩
  | reserved00 | reserved0D | reserved0E | reserved10 | reserved20 | reserved40 | reserved80 =>
    exact .inl ⟨_, _, .reserved _ rfl, fun s => exec_reserved _ _ s rfl rfl⟩
  | msgReseed body => exact .inl ⟨_, _, .msgReseed body, fun _ => rfl⟩
  | msgData body => exact .inl ⟨_, _, .msgData body, fun _ => rfl⟩
  | msgUnrecognised tag body => exact .inl ⟨_, _, .msgUnrecognised tag body, fun _ => rfl⟩
  | frame payload => exact .inr (.inl ⟨payload, rfl⟩)
  | txData bytes => exact .inr (.inr (.inl ⟨bytes, rfl⟩))
  | rxDrain bytes => exact .inr (.inr (.inr ⟨bytes, rfl⟩))

end Sys2Proof.Machine

/-! SUPPORT. Two runs of one instruction: a relation between blocks that every command it issues respects, with equal
responses, is respected by the whole instruction. With equality as part of the relation this is what an instruction
keeps (`exec_keeps`). Unlike the `relay*_keeps` lemmas it asks of a script only the commands that script issues, on the
lane it issues them on. -/

namespace Sys2Proof.Machine

/-- On related blocks the command gives the same response and leaves related blocks. -/
def Respects (R : Block → Block → Prop) (f : Block → Block × Resp) : Prop :=
  ∀ b b', R b b' → R (f b).1 (f b').1 ∧ (f b).2 = (f b').2

/-- Two scripts under way that have answered the same, stand at related blocks and both go on or both stop. -/
structure Relay.Agree (R : Block → Block → Prop) (x y : Relay) : Prop where
  block : R x.block y.block
  answers : x.answers = y.answers
  goesOn : x.goesOn = y.goesOn

section Agree

variable {R : Block → Block → Prop} {cfg : Cfg}

theorem issue_agree (op : BitVec 8) {r r' : Block × Resp} (h : R r.1 r'.1 ∧ r.2 = r'.2) :
    (issue op r).Agree R (issue op r') :=
  ⟨h.1, by simp [h.2], by simp [issue, h.2]⟩

theorem Relay.andThen_agree {x y : Relay} {f g : Block → Relay} (h : x.Agree R y)
    (hfg : ∀ b b', R b b' → (f b).Agree R (g b')) : (x.andThen f).Agree R (y.andThen g) := by
  have hxy := h.goesOn
  cases hx : x.goesOn
  · rw [hx] at hxy
    rwa [Relay.andThen_stop x f hx, Relay.andThen_stop y g hxy.symm]
  · rw [hx] at hxy
    obtain ⟨hb, ha, hg⟩ := hfg _ _ h.block
    rw [Relay.andThen_go x f hx, Relay.andThen_go y g hxy.symm]
    exact ⟨hb, by rw [h.answers, ha], hg⟩

theorem relayFrame_agree {payload : List Byte} (hk : ∀ k, Issues (.frame payload) k → Respects R (k.run cfg))
    {b b' : Block} (h : R b b') : (relayFrame cfg payload b).Agree R (relayFrame cfg payload b') :=
  Relay.andThen_agree (issue_agree _ (hk _ (.framePush ..) b b' h)) fun b b' h =>
    issue_agree _ (hk _ (.frameExtractOne ..) b b' h)

theorem relayTx_agree {bytes : List Byte} (hk : ∀ k, Issues (.txData bytes) k → Respects R (k.run cfg))
    {b b' : Block} (h : R b b') : (relayTx cfg bytes b).Agree R (relayTx cfg bytes b') := by
  cases bytes with
  | nil => exact issue_agree _ (hk _ (.txClose ..) b b' h)
  | cons x xs =>
    have hp := hk _ (.txProcess _ (x :: xs)) b b' h
    rw [← cmdProcess_eq] at hp
    simp only [relayTx, hp.2]
    refine Relay.andThen_agree (issue_agree _ hp) fun b1 b1' h1 => ?_
    have he := hk _ (.txEncode _ 2#32 (cmdProcess cfg .send (x :: xs) b').2.out) b1 b1' h1
    rw [show (cmdEncode 2#32 _ b1).2 = _ from he.2]
    exact Relay.andThen_agree (issue_agree _ he) fun b2 b2' h2 => issue_agree _ (hk _ (.txMake ..) b2 b2' h2)

section Rx

variable {rx : List Byte} (hk : ∀ k, Issues (.rxDrain rx) k → Respects R (k.run cfg))
include hk

theorem relayMessage_agree (payload : List Byte) {b b' : Block} (h : R b b') :
    (relayMessage cfg payload b).Agree R (relayMessage cfg payload b') := by
  have hd : R (cmdDecode payload b).1 (cmdDecode payload b').1 ∧ (cmdDecode payload b).2 = (cmdDecode payload b').2 :=
    hk _ (.rxDecode _ payload) b b' h
  simp only [relayMessage, hd.2]
  refine Relay.andThen_agree (issue_agree _ hd) fun b1 b1' h1 => ?_
  split
  · rw [cmdProcess_eq]
    exact issue_agree _ (hk _ (.rxProcess ..) b1 b1' h1)
  · have hc := issue_agree opClose (hk _ (.rxClose _ 3#32) b1 b1' h1)
    exact ⟨hc.block, hc.answers, rfl⟩

theorem relayDrain_agree (fuel : Nat) {b b' : Block} (h : R b b') :
    (relayDrain cfg fuel b).Agree R (relayDrain cfg fuel b') := by
  induction fuel generalizing b b' with
  | zero => exact ⟨h, rfl, rfl⟩
  | succ fuel ih =>
    have he : R (cmdExtractOne cfg b).1 (cmdExtractOne cfg b').1 ∧ (cmdExtractOne cfg b).2 = (cmdExtractOne cfg b').2 :=
      hk _ (.rxExtractOne _) b b' h
    simp only [relayDrain, he.2]
    split
    · exact ⟨he.1, rfl, rfl⟩
    · exact Relay.andThen_agree (issue_agree _ he) fun b1 b1' h1 =>
        Relay.andThen_agree (relayMessage_agree hk _ h1) fun b2 b2' h2 => ih h2

variable (hfbuf : ∀ b b', R b b' → b.fbuf = b'.fbuf)
include hfbuf

theorem drainAll_agree {b b' : Block} (h : R b b') : (drainAll cfg b).Agree R (drainAll cfg b') := by
  rw [drainAll, drainAll, hfbuf b b' h]
  exact relayDrain_agree hk _ h

theorem relayFeed_agree (fuel : Nat) (bytes : List Byte) {b b' : Block} (h : R b b') :
    (relayFeed cfg fuel bytes b).Agree R (relayFeed cfg fuel bytes b') := by
  induction fuel generalizing bytes b b' with
  | zero => exact ⟨h, rfl, rfl⟩
  | succ fuel ih =>
    have hpush : ∀ part b b', R b b' →
        R (cmdPush cfg part b).1 (cmdPush cfg part b').1 ∧ (cmdPush cfg part b).2 = (cmdPush cfg part b').2 :=
      fun part => hk _ (.rxPush _ part)
    have hroom : room cfg b = room cfg b' := by rw [room, room, hfbuf b b' h]
    simp only [relayFeed, (hpush bytes b b' h).2, hroom]
    split
    · exact Relay.andThen_agree ⟨h, rfl, rfl⟩ fun b1 b1' h1 =>
        Relay.andThen_agree (issue_agree _ (hpush _ b1 b1' h1)) fun b2 b2' h2 =>
          Relay.andThen_agree (drainAll_agree hk hfbuf h2) fun b3 b3' h3 => ih _ h3
    · exact Relay.andThen_agree (issue_agree _ (hpush _ b b' h)) fun b1 b1' h1 => drainAll_agree hk hfbuf h1

end Rx

/-- What every command that an instruction issues respects, the instruction respects, with equal responses. -/
theorem exec_agree (i : Instr) (hk : ∀ k, Issues i k → Respects R (k.run Config.config))
    (hfbuf : ∀ b b', R b b' → b.fbuf = b'.fbuf) {s s' t t' : State} (h : R s.block s'.block)
    (ht : exec i s = .next t) (ht' : exec i s' = .next t') : R t.block t'.block ∧ t.answers = t'.answers := by
  rcases exec_cases i with ⟨op, k, hi, e⟩ | ⟨payload, rfl⟩ | ⟨bytes, rfl⟩ | ⟨bytes, rfl⟩
  · rw [e] at ht ht'
    cases ht
    cases ht'
    obtain ⟨hb, ha⟩ := hk k hi _ _ h
    exact ⟨hb, by simp [ha]⟩
  · cases ht
    cases ht'
    obtain ⟨hb, ha, _⟩ := relayFrame_agree hk h
    exact ⟨hb, ha⟩
  · cases ht
    cases ht'
    obtain ⟨hb, ha, _⟩ := relayTx_agree hk h
    exact ⟨hb, ha⟩
  · cases ht
    cases ht'
    obtain ⟨hb, ha, _⟩ := relayFeed_agree hk hfbuf (bytes.length + 2) bytes h
    exact ⟨hb, ha⟩

end Agree

/-- What every command that an instruction issues keeps, the instruction keeps. -/
theorem exec_keeps (P : Block → Prop) {i : Instr} {s t : State} (ht : exec i s = .next t)
    (hk : ∀ k, Issues i k → ∀ b, P b → P (k.run Config.config b).1) (h : P s.block) : P t.block := by
  have hr : ∀ k, Issues i k → Respects (fun b b' => b = b' ∧ P b) (k.run Config.config) := by
    rintro k hi b _ ⟨rfl, hb⟩
    exact ⟨⟨rfl, hk k hi b hb⟩, rfl⟩
  obtain ⟨⟨_, hP⟩, _⟩ := exec_agree i hr (by rintro b _ ⟨rfl, _⟩; rfl) ⟨rfl, h⟩ ht ht
  exact hP

end Sys2Proof.Machine

/-! SUPPORT. What each lane command does to SEEDED, MODE, registers and queue; that it keeps R36's invariant of a lane;
and that it reads no register that holds no value (R22). -/

namespace Sys2Proof.Machine

@[simp] theorem xorBuffer_seeded (cfg : Cfg) (buf : List Byte) (l : LaneState) :
    (xorBuffer cfg buf l).2.seeded = l.seeded := by
  rw [xorBuffer_lane, kbits_seeded]

@[simp] theorem xorBuffer_mode (cfg : Cfg) (buf : List Byte) (l : LaneState) :
    (xorBuffer cfg buf l).2.mode = l.mode := by
  rw [xorBuffer_lane, kbits_mode]

section Cases

variable (cfg : Cfg) (l : LaneState)

theorem LaneCmd.run_setMode_cases (arg : Word32) :
    (LaneCmd.setMode arg).run cfg l = (l, refusedResp .badOperand) ∨
    ∃ m, (LaneCmd.setMode arg).run cfg l = ({ l with mode := m }, okResp 0#32 []) := by
  cases h : modeOperand arg with
  | none => exact .inl (by simp [LaneCmd.run, h])
  | some m => exact .inr ⟨m, by simp [LaneCmd.run, h]⟩

theorem LaneCmd.run_nextBit_cases :
    (l.seeded = false ∧ LaneCmd.nextBit.run cfg l = (l, refusedResp .notSeeded)) ∨
    (l.seeded = true ∧
      LaneCmd.nextBit.run cfg l = ((kbit cfg l).2, okResp (BitVec.ofNat 32 (bitVal (kbit cfg l).1)) [])) := by
  cases h : l.seeded
  · exact .inl ⟨rfl, by simp [LaneCmd.run, h]⟩
  · exact .inr ⟨rfl, by simp [LaneCmd.run, h]⟩

theorem LaneCmd.run_process_cases (buf : List Byte) :
    (l.mode = .identity ∧ (LaneCmd.process buf).run cfg l = (l, okResp 0#32 buf)) ∨
    (l.mode = .xor ∧ l.seeded = false ∧ (LaneCmd.process buf).run cfg l = (l, refusedResp .notSeeded)) ∨
    (l.mode = .xor ∧ l.seeded = true ∧
      (LaneCmd.process buf).run cfg l = ((xorBuffer cfg buf l).2, okResp 0#32 (xorBuffer cfg buf l).1)) := by
  cases hm : l.mode with
  | identity => exact .inl ⟨rfl, by simp [LaneCmd.run, hm]⟩
  | xor =>
    cases hs : l.seeded
    · exact .inr (.inl ⟨rfl, rfl, by simp [LaneCmd.run, hm, hs]⟩)
    · exact .inr (.inr ⟨rfl, rfl, by simp [LaneCmd.run, hm, hs]⟩)

end Cases

/-- SEEDED is not written but by SEED (R25). -/
theorem LaneCmd.run_seeded (cfg : Cfg) (k : LaneCmd) (l : LaneState) (hk : ∀ secret iv, k ≠ .seed secret iv) :
    (k.run cfg l).1.seeded = l.seeded := by
  cases k with
  | setMode arg => rcases LaneCmd.run_setMode_cases cfg l arg with e | ⟨_, e⟩ <;> rw [e]
  | seed secret iv => exact absurd rfl (hk secret iv)
  | nextBit => rcases LaneCmd.run_nextBit_cases cfg l with ⟨_, e⟩ | ⟨_, e⟩ <;> simp [e]
  | process buf => rcases LaneCmd.run_process_cases cfg l buf with ⟨_, e⟩ | ⟨_, _, e⟩ | ⟨_, _, e⟩ <;> simp [e]

/-- No lane command unseeds a lane (R25). -/
theorem LaneCmd.run_keeps_seeded (cfg : Cfg) (k : LaneCmd) (l : LaneState) (h : l.seeded = true) :
    (k.run cfg l).1.seeded = true := by
  cases k with
  | seed secret iv => rfl
  | setMode | nextBit | process => rw [LaneCmd.run_seeded cfg _ l (by simp)]; exact h

/-- MODE is not written but by SET_MODE (R26). -/
theorem LaneCmd.run_mode (cfg : Cfg) (k : LaneCmd) (l : LaneState) (hk : ∀ arg, k ≠ .setMode arg) :
    (k.run cfg l).1.mode = l.mode := by
  cases k with
  | setMode arg => exact absurd rfl (hk arg)
  | seed secret iv => rfl
  | nextBit => rcases LaneCmd.run_nextBit_cases cfg l with ⟨_, e⟩ | ⟨_, e⟩ <;> simp [e]
  | process buf => rcases LaneCmd.run_process_cases cfg l buf with ⟨_, e⟩ | ⟨_, _, e⟩ | ⟨_, _, e⟩ <;> simp [e]

/-- SET_MODE leaves the keystream state alone (R83). -/
theorem LaneCmd.run_setMode_sameKeystream (cfg : Cfg) (arg : Word32) (l : LaneState) :
    sameKeystream ((LaneCmd.setMode arg).run cfg l).1 l := by
  rcases LaneCmd.run_setMode_cases cfg l arg with e | ⟨_, e⟩ <;> rw [e] <;> exact ⟨rfl, rfl⟩

/-! ## The invariant of a lane -/

section Inv

variable {cfg : Cfg} {l : LaneState}

theorem resetLane_inv (cfg : Cfg) (c : Lane) : LaneInv cfg (resetLane cfg c) where
  regs_length := by simp [resetLane, unseededRegs, Cfg.nl]
  regs_fit h := by simp at h
  queue_le := by simp
  unseeded_queue _ := rfl

theorem LaneInv.setMode (h : LaneInv cfg l) (m : Mode) : LaneInv cfg { l with mode := m } :=
  ⟨h.regs_length, h.regs_fit, h.queue_le, h.unseeded_queue⟩

theorem seedLane_inv (cfg : Cfg) (secret iv : List Byte) (l : LaneState) : LaneInv cfg (seedLane cfg secret iv l) where
  regs_length := by simp [seedLane, splitSeed_length, Cfg.widths, Cfg.nl]
  regs_fit _ := splitSeed_fit cfg.lfsrs _
  queue_le := by simp
  unseeded_queue _ := rfl

theorem LaneInv.refill (h : LaneInv cfg l) (hs : l.seeded = true) : LaneInv cfg (refill cfg l) := by
  obtain ⟨hlen, hfit⟩ := addrLoop_regs cfg cfg.k 0 0 l.lfsr h.regs_length
  exact ⟨hlen, fun _ => hfit (h.regs_fit hs), by simp, by simp [hs]⟩

theorem LaneInv.popBit (h : LaneInv cfg l) : LaneInv cfg (popBit l).2 := by
  unfold Machine.popBit
  split
  · rename_i bit rest hq
    have hle : rest.length + 1 ≤ cfg.m := by simpa [hq] using h.queue_le
    exact ⟨h.regs_length, h.regs_fit, Nat.le_of_succ_le hle, fun hs => by simp [h.unseeded_queue hs] at hq⟩
  · exact h

theorem LaneInv.kbit (h : LaneInv cfg l) (hs : l.seeded = true) : LaneInv cfg (kbit cfg l).2 := by
  unfold Machine.kbit
  split
  · exact (h.refill hs).popBit
  · exact h.popBit

theorem LaneInv.kbits (n : Nat) (h : LaneInv cfg l) (hs : l.seeded = true) : LaneInv cfg (kbits cfg n l).2 := by
  induction n generalizing l with
  | zero => exact h
  | succ n ih => exact ih (h.kbit hs) (by simp [hs])

theorem LaneCmd.run_inv (k : LaneCmd) (h : LaneInv cfg l) : LaneInv cfg (k.run cfg l).1 := by
  cases k with
  | setMode arg =>
    rcases LaneCmd.run_setMode_cases cfg l arg with e | ⟨m, e⟩ <;> rw [e]
    · exact h
    · exact h.setMode m
  | seed secret iv => exact seedLane_inv cfg secret iv l
  | nextBit =>
    rcases LaneCmd.run_nextBit_cases cfg l with ⟨_, e⟩ | ⟨hs, e⟩ <;> rw [e]
    · exact h
    · exact h.kbit hs
  | process buf =>
    rcases LaneCmd.run_process_cases cfg l buf with ⟨_, e⟩ | ⟨_, _, e⟩ | ⟨_, hs, e⟩ <;> rw [e]
    · exact h
    · exact h
    · rw [xorBuffer_lane]
      exact h.kbits _ hs

end Inv

/-! ## Registers that hold no value -/

/-- An unseeded lane is masked by dropping its registers. -/
theorem LaneState.masked_of_unseeded (l : LaneState) (h : l.seeded = false) : l.masked = { l with lfsr := [] } :=
  if_neg (by simp [h])

@[simp] theorem LaneState.masked_masked (l : LaneState) : l.masked.masked = l.masked := by
  cases h : l.seeded
  · rw [l.masked_of_unseeded h]; exact LaneState.masked_of_unseeded _ h
  · rw [l.masked_of_seeded h, l.masked_of_seeded h]

/-- A lane command on a masked lane does what it does on the lane: a seeded lane is not masked, and on an unseeded one
only SEED and SET_MODE write, neither of which reads a register. -/
theorem LaneCmd.run_masked (cfg : Cfg) (k : LaneCmd) (l : LaneState) :
    (k.run cfg l.masked).1.masked = (k.run cfg l).1.masked ∧ (k.run cfg l.masked).2 = (k.run cfg l).2 := by
  cases hs : l.seeded with
  | true => rw [l.masked_of_seeded hs]; exact ⟨rfl, rfl⟩
  | false =>
    cases k with
    | setMode arg =>
      cases h : modeOperand arg with
      | none => simp [LaneCmd.run, h]
      | some m => simp [LaneCmd.run, h, LaneState.masked, hs]
    | seed secret iv => simp [LaneCmd.run, seedLane]
    | nextBit => simp [LaneCmd.run, hs]
    | process buf => cases hm : l.mode <;> simp [LaneCmd.run, hs, hm]

end Sys2Proof.Machine

/-! SUPPORT. Everything a command can do to a block, said once, and what follows for a lane, the framer buffer, a CLOSED
block, the invariant of R36 and the registers that hold no value (R22). -/

namespace Sys2Proof.Machine

/-- What a command may make of a block: nothing; the reset values; one lane written, bytes appended that fit, bytes
taken from the front, or closing, all four on an ACTIVE block alone (R125). -/
inductive Command.Effect (cfg : Cfg) : Command → Block → Block → Prop where
  | nothing (k : Command) (b : Block) : Effect cfg k b b
  | reset (b : Block) : Effect cfg .reset b (resetBlock cfg)
  | lane (c : Lane) (j : LaneCmd) (b : Block) (hr : b.run = .active) :
      Effect cfg (.lane c j) b (b.setLane c (j.run cfg (b.lane c)).1)
  | push (bytes : List Byte) (b : Block) (hr : b.run = .active)
      (hc : capAdmits cfg (b.fbuf.length + bytes.length) = true) :
      Effect cfg (.push bytes) b { b with fbuf := b.fbuf ++ bytes }
  | extractOne (n : Nat) (b : Block) (hr : b.run = .active) :
      Effect cfg .extractOne b { b with fbuf := b.fbuf.drop n }
  | close (k : Command) (cause : Cause) (v : Word32) (b : Block) (hr : b.run = .active) :
      Effect cfg k b (b.closeWith cause v)

theorem Command.run_effect (cfg : Cfg) (k : Command) (b : Block) : Command.Effect cfg k b (k.run cfg b).1 := by
  cases k with
  | reset => exact .reset b
  | status | reserved => exact .nothing _ b
  | lane c j =>
    rcases whenActive_cases b (b.onLane c (j.run cfg)) with ⟨_, e⟩ | ⟨hr, e⟩ <;> rw [Command.run, e]
    · exact .nothing _ b
    · exact .lane c j b hr
  | push bytes =>
    rcases cmdPush_cases cfg bytes b with ⟨_, e⟩ | ⟨_, _, e⟩ | ⟨hr, hc, e⟩ <;> rw [Command.run, e]
    · exact .nothing _ b
    · exact .nothing _ b
    · exact .push bytes b hr hc
  | extractOne =>
    rcases cmdExtractOne_cases cfg b with
      ⟨_, e⟩ | ⟨_, _, e⟩ | ⟨len, hr, _, _, e⟩ | ⟨_, _, _, _, _, e⟩ | ⟨len, hr, _, _, _, e⟩ <;> rw [Command.run, e]
    · exact .nothing _ b
    · exact .nothing _ b
    · exact .close _ .framingFault _ b hr
    · exact .nothing _ b
    · exact .extractOne (4 + len) b hr
  | make payload => rw [Command.run, cmdMake_block]; exact .nothing _ b
  | encode arg body => rw [Command.run, cmdEncode_block]; exact .nothing _ b
  | decode msg =>
    rcases cmdDecode_cases msg b with ⟨_, e⟩ | ⟨hr, _, e⟩ | ⟨_, _, _, _, e⟩ | ⟨tag, hr, _, _, _, e⟩ <;>
      rw [Command.run, e]
    · exact .nothing _ b
    · exact .close _ .framingFault _ b hr
    · exact .nothing _ b
    · exact .close _ .unknownMessageType _ b hr
  | close arg =>
    rcases cmdClose_cases arg b with ⟨_, e⟩ | ⟨_, _, e⟩ | ⟨cause, hr, _, e⟩ <;> rw [Command.run, e]
    · exact .nothing _ b
    · exact .nothing _ b
    · exact .close _ cause 0#32 b hr

section Effect

variable {cfg : Cfg} {k : Command} {b b' : Block}

/-- Only RESET changes a CLOSED block (R125, R128). -/
theorem Command.Effect.of_closed (h : Command.Effect cfg k b b') (hk : k ≠ .reset) (hr : b.run = .closed) : b' = b := by
  cases h with
  | nothing => rfl
  | reset => exact absurd rfl hk
  | lane _ _ _ ha | push _ _ ha _ | extractOne _ _ ha | close _ _ _ _ ha => simp [hr] at ha

/-- A lane is written by RESET and by the commands on that lane alone (R35). -/
theorem Command.Effect.lane_cases (h : Command.Effect cfg k b b') (hk : k ≠ .reset) (c : Lane) :
    b'.lane c = b.lane c ∨ ∃ j, k = .lane c j ∧ b'.lane c = (j.run cfg (b.lane c)).1 := by
  cases h with
  | nothing => exact .inl rfl
  | reset => exact absurd rfl hk
  | lane d j =>
    by_cases hcd : c = d
    · subst hcd; exact .inr ⟨j, rfl, by simp⟩
    · exact .inl (b.lane_setLane_other d c _ hcd)
  | push | extractOne => cases c <;> exact .inl rfl
  | close => exact .inl (by simp)

/-- The framer buffer is written by RESET, PUSH and EXTRACT_ONE alone (R30). -/
theorem Command.Effect.fbuf_eq (h : Command.Effect cfg k b b') (hreset : k ≠ .reset) (hpush : ∀ bytes, k ≠ .push bytes)
    (hextract : k ≠ .extractOne) : b'.fbuf = b.fbuf := by
  cases h with
  | nothing | close => rfl
  | reset => exact absurd rfl hreset
  | lane => simp
  | push bytes => exact absurd rfl (hpush bytes)
  | extractOne => exact absurd rfl hextract

end Effect

/-! ## One lane -/

/-- A lane command is a function of its lane and of STATE, and writes that lane alone (R35). -/
theorem Command.lane_run_agree (cfg : Cfg) (c : Lane) (j : LaneCmd) {b b' : Block} (hl : b.lane c = b'.lane c)
    (hr : b.run = b'.run) :
    ((Command.lane c j).run cfg b).2 = ((Command.lane c j).run cfg b').2 ∧
      ((Command.lane c j).run cfg b).1.lane c = ((Command.lane c j).run cfg b').1.lane c := by
  cases h : b.run with
  | closed => simp [Command.run, whenActive_closed, h, ← hr, hl]
  | active => simp [Command.run, whenActive_active, h, ← hr, hl, Block.onLane]

/-- A lane command changes nothing but its lane (R35). -/
theorem Command.lane_run_frame (cfg : Cfg) (c : Lane) (j : LaneCmd) (b : Block) :
    ∃ l, ((Command.lane c j).run cfg b).1 = b.setLane c l := by
  rcases whenActive_cases b (b.onLane c (j.run cfg)) with ⟨_, e⟩ | ⟨_, e⟩
  · exact ⟨b.lane c, by rw [Command.run, e]; simp⟩
  · exact ⟨_, by rw [Command.run, e]; rfl⟩

/-! ## The invariant of a block -/

section Inv

variable {cfg : Cfg} {b : Block}

theorem resetBlock_inv (cfg : Cfg) : BlockInv cfg (resetBlock cfg) where
  send := resetLane_inv cfg .send
  recv := resetLane_inv cfg .recv
  fbuf_le := by simp
  active_iff := by simp
  active_info _ := rfl

theorem BlockInv.lane (h : BlockInv cfg b) (c : Lane) : LaneInv cfg (b.lane c) := by
  cases c
  · exact h.send
  · exact h.recv

theorem BlockInv.setLane (h : BlockInv cfg b) (c : Lane) {l : LaneState} (hl : LaneInv cfg l) :
    BlockInv cfg (b.setLane c l) := by
  cases c
  · exact { h with send := hl }
  · exact { h with recv := hl }

theorem BlockInv.setFbuf (h : BlockInv cfg b) {bytes : List Byte}
    (hle : ∀ cap, cfg.framerCap = some cap → bytes.length ≤ cap) : BlockInv cfg { b with fbuf := bytes } :=
  { h with fbuf_le := hle }

theorem BlockInv.closeWith (h : BlockInv cfg b) (cause : Cause) (v : Word32) : BlockInv cfg (b.closeWith cause v) :=
  { h with
    active_iff := by simp [cause.code_ne_zero]
    active_info := by simp }

theorem Command.Effect.inv {k : Command} {b' : Block} (h : Command.Effect cfg k b b') (hb : BlockInv cfg b) :
    BlockInv cfg b' := by
  cases h with
  | nothing => exact hb
  | reset => exact resetBlock_inv cfg
  | lane c j => exact hb.setLane c (j.run_inv (hb.lane c))
  | push bytes _ _ hc =>
    refine hb.setFbuf ?_
    rw [List.length_append]
    exact (capAdmits_eq_true_iff cfg _).mp hc
  | extractOne n =>
    refine hb.setFbuf fun cap hcap => ?_
    have hle := hb.fbuf_le cap hcap
    rw [List.length_drop]
    omega
  | close _ cause v => exact hb.closeWith cause v

/-- Every instruction keeps the invariant of R36. -/
theorem exec_inv {i : Instr} {s t : State} (h : s.Inv) (ht : exec i s = .next t) : t.Inv :=
  exec_keeps (BlockInv Config.config) ht (fun k _ b hb => (k.run_effect Config.config b).inv hb) h

end Inv

/-! ## What an instruction leaves alone -/

/-- What the commands of an instruction on lane `c` keep of that lane, any instruction but RESET keeps. -/
theorem exec_keeps_lane (Q : LaneState → Prop) (c : Lane) {i : Instr} {s t : State} (ht : exec i s = .next t)
    (hi : i ≠ .reset) (hQ : ∀ j, Issues i (.lane c j) → ∀ l, Q l → Q (j.run Config.config l).1)
    (h : Q (s.block.lane c)) : Q (t.block.lane c) := by
  refine exec_keeps (fun b => Q (b.lane c)) ht (fun k hk b hb => ?_) h
  have hreset : k ≠ .reset := by rintro rfl; cases hk; exact hi rfl
  rcases (k.run_effect Config.config b).lane_cases hreset c with e | ⟨j, rfl, e⟩
  · rwa [e]
  · rw [e]; exact hQ j hk _ hb

/-- An instruction that issues no RESET, PUSH or EXTRACT_ONE leaves the framer buffer alone. -/
theorem exec_fbuf {i : Instr} {s t : State} (ht : exec i s = .next t)
    (hi : ∀ k, Issues i k → k ≠ .reset ∧ (∀ bytes, k ≠ .push bytes) ∧ k ≠ .extractOne) :
    t.block.fbuf = s.block.fbuf := by
  refine exec_keeps (fun b => b.fbuf = s.block.fbuf) ht (fun k hk b hb => ?_) rfl
  obtain ⟨hreset, hpush, hextract⟩ := hi k hk
  exact ((k.run_effect Config.config b).fbuf_eq hreset hpush hextract).trans hb

/-! ## Registers that hold no value -/

@[simp] theorem Block.masked_masked (b : Block) : b.masked.masked = b.masked := by
  simp [Block.masked]

@[simp] theorem statusWord_masked (b : Block) : statusWord b.masked = statusWord b := by
  simp [statusWord, Block.masked]

/-- The outcome of a command with the block in it masked. -/
def maskedOutcome (r : Block × Resp) : Block × Resp := (r.1.masked, r.2)

theorem whenActive_masked (b : Block) {f g : Block × Resp} (h : maskedOutcome f = maskedOutcome g) :
    maskedOutcome (whenActive b.masked f) = maskedOutcome (whenActive b g) := by
  cases hr : b.run
  · rwa [whenActive_active b g hr, whenActive_active b.masked f hr]
  · rw [whenActive_closed b g hr, whenActive_closed b.masked f hr]
    simp [maskedOutcome]

/-- No command reads a register that holds no value (R22). -/
theorem Command.run_masked (cfg : Cfg) (k : Command) (b : Block) :
    maskedOutcome (k.run cfg b.masked) = maskedOutcome (k.run cfg b) := by
  cases k with
  | reset => rfl
  | status | reserved => simp [Command.run, cmdStatus, cmdReserved, maskedOutcome]
  | lane c j =>
    obtain ⟨hl, hr⟩ := j.run_masked cfg (b.lane c)
    exact whenActive_masked b (by simp [maskedOutcome, Block.onLane, hl, hr])
  | push bytes =>
    refine whenActive_masked b ?_
    cases h : capAdmits cfg (b.fbuf.length + bytes.length) <;> simp [maskedOutcome, Block.masked, h]
  | extractOne =>
    refine whenActive_masked b ?_
    rw [Block.masked_fbuf]
    split
    · simp [maskedOutcome]
    · split
      · simp [maskedOutcome]
      · split <;> simp [maskedOutcome, Block.masked]
  | make payload =>
    refine whenActive_masked b ?_
    split <;> simp [maskedOutcome]
  | encode arg body =>
    refine whenActive_masked b ?_
    split <;> simp [maskedOutcome]
  | decode msg =>
    refine whenActive_masked b ?_
    split
    · simp [maskedOutcome]
    · split <;> simp [maskedOutcome]
  | close arg =>
    refine whenActive_masked b ?_
    split <;> simp [maskedOutcome]

/-- Blocks that differ only in registers that hold no value get the same response and go on differing only there
(R22). -/
theorem Command.respects_masked (cfg : Cfg) (k : Command) :
    Respects (fun b b' => b.masked = b'.masked) (k.run cfg) := by
  intro b b' h
  have e : maskedOutcome (k.run cfg b) = maskedOutcome (k.run cfg b') := by
    rw [← k.run_masked cfg b, ← k.run_masked cfg b', h]
  exact Prod.mk.inj e

end Sys2Proof.Machine

/-! The statements about the state of a block (10_state.md). -/

namespace Sys2Proof.Machine

/-! ## The status word -/

theorem flagBit_eq_ofBool (x : Bool) : flagBit x = BitVec.ofBool x := by cases x <;> rfl

theorem Mode.bit_eq_ofBool (m : Mode) : m.bit = BitVec.ofBool (decide (m = .identity)) := by cases m <;> rfl

theorem RunState.bit_eq_ofBool (r : RunState) : r.bit = BitVec.ofBool (decide (r = .closed)) := by cases r <;> rfl

/-- The bits of the status word above CAUSE (R28). -/
theorem getLsbD_statusWord (b : Block) (n : Nat) :
    (statusWord b).getLsbD (n + 4) =
      [decide (b.run = .closed), b.send.seeded, b.recv.seeded, decide (b.send.mode = .identity),
        decide (b.recv.mode = .identity)].getD n false := by
  simp only [statusWord, flagBit_eq_ofBool, Mode.bit_eq_ofBool, RunState.bit_eq_ofBool, BitVec.getLsbD_append,
    BitVec.getLsbD_ofBool, BitVec.getLsbD_zero]
  match n with
  | 0 | 1 | 2 | 3 | 4 => simp
  | n + 5 => simp

/-! ## The obligations -/

/-- Settles O7: one step runs one instruction, whose commands each keep the invariant. -/
theorem everyStepKeepsTheInvariant : Obligations.EveryStepKeepsTheInvariant := by
  intro s t hs ht
  cases hp : s.pending with
  | nil =>
    rw [step_nil s hp] at ht
    cases ht
    exact hs
  | cons x rest =>
    rw [step_cons s x rest hp] at ht
    exact exec_inv (s := { s with pending := rest }) hs ht

/-- Settles O13: on a CLOSED block no command but RESET has an effect. -/
theorem onlyResetChangesAClosedBlock : Obligations.OnlyResetChangesAClosedBlock := by
  intro i s t hr hi ht
  refine exec_keeps (· = s.block) ht (fun k hk b hb => ?_) rfl
  subst hb
  exact (k.run_effect Config.config s.block).of_closed (by rintro rfl; cases hk; exact hi rfl) hr

/-- Settles O14: a lane is written by its own lane commands alone, of which only SEED writes SEEDED and only SET_MODE
writes MODE. -/
theorem onlySeedSetModeAndResetChangeFlags : Obligations.OnlySeedSetModeAndResetChangeFlags := by
  intro i s t c ht
  refine ⟨fun hne => ?_, fun ht0 hs1 => ?_, fun hne => ?_⟩
  · by_contra hi
    obtain ⟨hreset, hseed⟩ := not_or.mp hi
    refine hne (exec_keeps_lane (·.seeded = (s.block.lane c).seeded) c ht hreset (fun j hj l hl => ?_) rfl)
    refine (j.run_seeded Config.config l ?_).trans hl
    rintro secret iv rfl
    cases hj
    exact hseed ⟨secret, iv, rfl⟩
  · by_contra hreset
    have ht1 := exec_keeps_lane (·.seeded = true) c ht hreset
      (fun j _ l hl => j.run_keeps_seeded Config.config l hl) hs1
    simp [ht0] at ht1
  · by_contra hi
    obtain ⟨hreset, hmode⟩ := not_or.mp hi
    refine hne (exec_keeps_lane (·.mode = (s.block.lane c).mode) c ht hreset (fun j hj l hl => ?_) rfl)
    refine (j.run_mode Config.config l ?_).trans hl
    rintro arg rfl
    cases hj
    exact hmode ⟨arg, rfl⟩

/-- Settles O15, by the commands that write registers, queue or buffer and the instructions that issue them. -/
theorem onlyItsOwnCommandsChangeALaneOrTheBuffer : Obligations.OnlyItsOwnCommandsChangeALaneOrTheBuffer := by
  intro i s t c ht
  refine ⟨fun hne => ?_, fun hne => ?_⟩
  · by_contra hi
    simp only [not_or] at hi
    obtain ⟨hreset, hseed, hnext, hprocess, htx, hrx⟩ := hi
    have hsame : sameKeystream (t.block.lane c) (s.block.lane c) := by
      refine exec_keeps_lane (sameKeystream · (s.block.lane c)) c ht hreset (fun j hj l hl => ?_) ⟨rfl, rfl⟩
      cases hj with
      | setMode _ arg =>
        obtain ⟨hregs, hqueue⟩ := LaneCmd.run_setMode_sameKeystream Config.config arg l
        exact ⟨hregs.trans hl.1, hqueue.trans hl.2⟩
      | seed _ secret iv => exact absurd ⟨secret, iv, rfl⟩ hseed
      | nextBit => exact absurd rfl hnext
      | process _ buf => exact absurd ⟨buf, rfl⟩ hprocess
      | txProcess bytes => exact absurd ⟨rfl, bytes, rfl⟩ htx
      | rxProcess bytes => exact absurd ⟨rfl, bytes, rfl⟩ hrx
    exact hne.elim (· hsame.1) (· hsame.2)
  · by_contra hi
    simp only [not_or] at hi
    obtain ⟨hreset, hpush, hextract, hframe, hrx⟩ := hi
    refine hne (exec_fbuf ht fun k hk => ⟨?_, ?_, ?_⟩)
    · rintro rfl
      cases hk
      exact hreset rfl
    · rintro bytes rfl
      cases hk with
      | push => exact hpush ⟨bytes, rfl⟩
      | framePush payload => exact hframe ⟨payload, rfl⟩
      | rxPush rx => exact hrx ⟨rx, rfl⟩
    · rintro rfl
      cases hk with
      | extractOne => exact hextract rfl
      | frameExtractOne payload => exact hframe ⟨payload, rfl⟩
      | rxExtractOne rx => exact hrx ⟨rx, rfl⟩

/-- Settles O16: a lane command is a function of its lane and of STATE, and changes nothing else. -/
theorem lanesAreIndependent : Obligations.LanesAreIndependent := by
  intro i c d s t s' t' hd hi hl hr hs ht
  obtain ⟨op, j, e⟩ := exec_laneCommand hi
  rw [e] at hs ht
  cases hs
  cases ht
  obtain ⟨hresp, hlane⟩ := Command.lane_run_agree Config.config c j hl hr
  obtain ⟨l, hsl⟩ := Command.lane_run_frame Config.config c j s.block
  obtain ⟨l', htl⟩ := Command.lane_run_frame Config.config c j t.block
  have hother : ((Command.lane c j).run Config.config s.block).1.lane d = s.block.lane d := by
    rw [hsl, Block.lane_setLane_other _ c d l hd]
  exact ⟨by simp [hresp], hlane, by simp [hsl, htl, hr], hother, by simp [hsl], by simp [hsl], by simp [hsl]⟩

/-- Settles O19: CAUSE is the lowest part of the word, the rest is read off bit by bit. -/
theorem statusWordHasTheLayout : Obligations.StatusWordHasTheLayout := by
  intro b
  have bit := getLsbD_statusWord b
  refine ⟨BitVec.extractLsb'_append_eq_right, ?_, bit 1, bit 2, ?_, ?_, ?_⟩
  · rw [bit 0]; simp
  · rw [bit 3]; simp
  · rw [bit 4]; simp
  · refine BitVec.eq_of_getLsbD_eq fun n hn => ?_
    rw [BitVec.getLsbD_extractLsb', show 9 + n = n + 5 + 4 by omega, bit]
    simp

/-- Settles O28: the two refusals by evaluation; the two runs by the commands, none of which tells a block from the
masked block. -/
theorem unseededLaneIsRefused : Obligations.UnseededLaneIsRefused := by
  refine ⟨fun s c buf hr hs => ⟨?_, fun hm => ?_⟩, fun i s s' hp hb => ?_⟩
  · have e : cmdNextBit Config.config c s.block = refuse .notSeeded s.block := by
      simp [cmdNextBit, whenActive_active, hr, hs]
    exact congrArg (fun r => Host.Outcome.next (s.commit opNextBit r)) e
  · have e : cmdProcess Config.config c buf s.block = refuse .notSeeded s.block := by
      simp [cmdProcess, whenActive_active, hr, hs, hm]
    exact congrArg (fun r => Host.Outcome.next (s.commit opProcess r)) e
  · obtain ⟨t, ht⟩ := exec_completes i s
    obtain ⟨t', ht'⟩ := exec_completes i s'
    obtain ⟨hblock, hanswers⟩ := exec_agree i (fun k _ => k.respects_masked Config.config)
      (fun _ _ h => by simpa using congrArg Block.fbuf h) hb ht ht'
    have hpending : t.pending = t'.pending := by rw [exec_pending i s t ht, exec_pending i s' t' ht', hp]
    exact ⟨t, t', ht, ht', hanswers, hpending, hblock⟩

/-- Settles O8. -/
theorem resetStateMeetsTheInvariant : Obligations.ResetStateMeetsTheInvariant :=
  resetBlock_inv Config.config

/-- Settles O17, by evaluation: RESET does not look at the block. -/
theorem resetIsAlwaysAccepted : Obligations.ResetIsAlwaysAccepted := by
  intro s
  refine ⟨_, rfl, rfl, rfl, fun c => ?_, rfl, rfl, rfl, rfl⟩
  cases c <;> exact ⟨rfl, rfl, rfl⟩

end Sys2Proof.Machine

/-! The statements about the memory and the order of issue (20_memory.md). -/

namespace Sys2Proof.Machine

/-- Settles O4: the oldest input leaves the queue (`step_cons`), and what is fetched for an input that decodes is its
decoding (`fetched_of_decode`), so the choice of log 11 is not met. -/
theorem stepRunsTheDecodedInstruction : Obligations.StepRunsTheDecodedInstruction := by
  intro s x rest i hpending hdecode
  rw [step_cons s x rest hpending, fetched_of_decode x i hdecode]

end Sys2Proof.Machine

/-! SUPPORT. What the decoder makes of a record of the port, of a message and of a frame (30_encoding.md R54, R55, R59,
R65, R66). -/

namespace Sys2Proof

open Sys2Proof.Machine

/-- A reserved row is read back from its op code, don't-care bits and all (R65). -/
theorem decodeOp_of_opCode {i : Instr} {op : BitVec 8} (hi : isReserved i = true) (ho : opCode i = some op) :
    decodeOp op = i := by
  cases i with
  | reserved00 | reserved0D => cases ho; decide
  | reserved0E r | reserved10 r | reserved20 r | reserved40 r | reserved80 r => cases ho; revert r; decide
  | _ => cases hi

/-- The row that an op code selects has that op code (R59, R65). -/
theorem opCode_decodeCmd (c : Cmd) : opCode (decodeCmd c) = some c.op := by
  obtain ⟨op, lane, arg, a, b⟩ := c
  by_cases hres : op.toNat = 0 ∨ 13 ≤ op.toNat
  · obtain ⟨_, ho⟩ := decodeOp_reserved op hres
    rw [decodeCmd_reserved_fields lane arg a b op hres, ho]
  · rcases op_of_range op (by omega) (by omega) with
      rfl | rfl | rfl | rfl | rfl | rfl | rfl | rfl | rfl | rfl | rfl | rfl <;> simp [opCode]

/-- The decoder reads no field but those its row uses (R59, R66). -/
theorem decodeCmd_usedFields (c : Cmd) : decodeCmd (usedFields c) = decodeCmd c := by
  obtain ⟨op, lane, arg, a, b⟩ := c
  by_cases hres : op.toNat = 0 ∨ 13 ≤ op.toNat
  · have hfields := decodeCmd_reserved_fields (op := op) (h := hres)
    exact (hfields ..).trans (hfields ..).symm
  · rcases op_of_range op (by omega) (by omega) with
      rfl | rfl | rfl | rfl | rfl | rfl | rfl | rfl | rfl | rfl | rfl | rfl <;> simp [usedFields]

/-- A message is selected by the number its first four bytes stand for (R55, R56). -/
theorem decodeMsg_le32_append {tag : Nat} (ht : tag < 2 ^ 32) (body : List Byte) :
    decodeMsg (le32 tag ++ body) =
      if tag = 1 then .ok (.msgReseed body) else if tag = 2 then .ok (.msgData body)
      else .ok (.msgUnrecognised (BitVec.ofNat 32 tag) body) := by
  simp only [decodeMsg, readU32_le32_append tag ht, drop_four_le32_append]

/-- The bytes of a frame are read back as that frame (R54). -/
theorem decodeFrame_frameBytes {payload : List Byte} (hl : payload.length < 2 ^ 32) :
    decodeFrame (frameBytes payload) = .ok (.frame payload) := by
  simp [decodeFrame, frameBytes, readU32_le32_append _ hl]

@[simp] theorem fetched_cmd (c : Cmd) : fetched (.cmd c) = decodeCmd c := rfl

end Sys2Proof

/-! SUPPORT. How a command ends (60_exceptions.md R119), said once for every command, and under which op code an
instruction is answered. -/

namespace Sys2Proof.Machine

/-- The ends of a command: OK; NOTHING, of EXTRACT_ONE alone; FAULT, of EXTRACT_ONE and DECODE alone; REFUSED. The block
and the response that each leaves are given in full, but for the block after OK. -/
inductive Command.Ends : Command → Block → Block × Resp → Prop where
  | ok (k : Command) (b b' : Block) (v : Word32) (out : List Byte) : Ends k b (b', okResp v out)
  | nothing (b : Block) : Ends .extractOne b (b, nothingResp)
  | extractFault (v : Nat) (b : Block) : Ends .extractOne b (raiseFault .framingFault v b)
  | decodeFault (msg : List Byte) (cause : Cause) (v : Nat) (b : Block)
      (hc : cause = .framingFault ∨ cause = .unknownMessageType) : Ends (.decode msg) b (raiseFault cause v b)
  | refused (k : Command) (r : Reason) (b : Block) : Ends k b (refuse r b)

/-- A lane command is refused and leaves its lane, or answers OK. -/
theorem LaneCmd.run_refused_or_ok (cfg : Cfg) (j : LaneCmd) (l : LaneState) :
    (∃ r, j.run cfg l = (l, refusedResp r)) ∨ ∃ l' v out, j.run cfg l = (l', okResp v out) := by
  cases j with
  | setMode arg =>
    rcases LaneCmd.run_setMode_cases cfg l arg with e | ⟨m, e⟩
    · exact .inl ⟨_, e⟩
    · exact .inr ⟨_, _, _, e⟩
  | seed secret iv => exact .inr ⟨_, _, _, rfl⟩
  | nextBit =>
    rcases LaneCmd.run_nextBit_cases cfg l with ⟨_, e⟩ | ⟨_, e⟩
    · exact .inl ⟨_, e⟩
    · exact .inr ⟨_, _, _, e⟩
  | process buf =>
    rcases LaneCmd.run_process_cases cfg l buf with ⟨_, e⟩ | ⟨_, _, e⟩ | ⟨_, _, e⟩
    · exact .inr ⟨_, _, _, e⟩
    · exact .inl ⟨_, e⟩
    · exact .inr ⟨_, _, _, e⟩

theorem Command.lane_run_ends (cfg : Cfg) (c : Lane) (j : LaneCmd) (b : Block) :
    Command.Ends (.lane c j) b ((Command.lane c j).run cfg b) := by
  rcases whenActive_cases b (b.onLane c (j.run cfg)) with ⟨_, e⟩ | ⟨_, e⟩ <;> rw [Command.run, e]
  · exact .refused _ .closed b
  · rcases j.run_refused_or_ok cfg (b.lane c) with ⟨r, hr⟩ | ⟨l, v, out, hr⟩ <;> rw [Block.onLane, hr]
    · rw [Block.setLane_lane]; exact .refused _ r b
    · exact .ok _ b _ v out

/-- Every command ends in one of the four ways of R119, under every configuration. -/
theorem Command.run_ends (cfg : Cfg) (k : Command) (b : Block) : Command.Ends k b (k.run cfg b) := by
  cases k with
  | reset | status => exact .ok _ b _ _ _
  | reserved => exact .refused _ .illegalCommand b
  | lane c j => exact Command.lane_run_ends cfg c j b
  | push bytes =>
    rcases cmdPush_cases cfg bytes b with ⟨_, e⟩ | ⟨_, _, e⟩ | ⟨_, _, e⟩ <;> rw [Command.run, e]
    · exact .refused _ _ b
    · exact .refused _ _ b
    · exact .ok _ b _ _ _
  | extractOne =>
    rcases cmdExtractOne_cases cfg b with
      ⟨_, e⟩ | ⟨_, _, e⟩ | ⟨len, _, _, _, e⟩ | ⟨_, _, _, _, _, e⟩ | ⟨_, _, _, _, _, e⟩ <;> rw [Command.run, e]
    · exact .refused _ _ b
    · exact .nothing b
    · exact .extractFault len b
    · exact .nothing b
    · exact .ok _ b _ _ _
  | make payload =>
    rcases cmdMake_cases payload b with ⟨_, e⟩ | ⟨_, _, e⟩ | ⟨_, _, e⟩ <;> rw [Command.run, e]
    · exact .refused _ _ b
    · exact .refused _ _ b
    · exact .ok _ b _ _ _
  | encode arg body =>
    rcases cmdEncode_cases arg body b with ⟨_, e⟩ | ⟨_, _, e⟩ | ⟨_, _, _, e⟩ <;> rw [Command.run, e]
    · exact .refused _ _ b
    · exact .refused _ _ b
    · exact .ok _ b _ _ _
  | decode msg =>
    rcases cmdDecode_cases msg b with ⟨_, e⟩ | ⟨_, _, e⟩ | ⟨_, _, _, _, e⟩ | ⟨tag, _, _, _, _, e⟩ <;>
      rw [Command.run, e]
    · exact .refused _ _ b
    · exact .decodeFault msg _ _ b (.inl rfl)
    · exact .ok _ b _ _ _
    · exact .decodeFault msg _ tag b (.inr rfl)
  | close arg =>
    rcases cmdClose_cases arg b with ⟨_, e⟩ | ⟨_, _, e⟩ | ⟨_, _, _, e⟩ <;> rw [Command.run, e]
    · exact .refused _ _ b
    · exact .refused _ _ b
    · exact .ok _ b _ _ _

/-! ## The op code of the answer -/

section OpCode

variable {i : Instr} {op : BitVec 8}

/-- A row of R59 or R65 gives one response, under its op code (R58). -/
theorem exec_answers_opCode (ho : opCode i = some op) (s : State) : ∃ r, exec i s = .next (s.commit op r) := by
  cases i <;> cases ho <;> exact ⟨_, rfl⟩

/-- A row of R59 or R65 is one command, answered under its op code. -/
theorem exec_of_opCode (ho : opCode i = some op) :
    ∃ k, Issues i k ∧ ∀ s, exec i s = .next (s.commit op (k.run Config.config s.block)) := by
  rcases exec_cases i with ⟨op', k, hk, e⟩ | ⟨_, rfl⟩ | ⟨_, rfl⟩ | ⟨_, rfl⟩
  · refine ⟨k, hk, fun s => ?_⟩
    obtain ⟨r, hr⟩ := exec_answers_opCode ho s
    have hcommit := Host.Outcome.next.inj ((e s).symm.trans hr)
    obtain rfl : op' = op := by simpa using congrArg (fun t => t.answers.map Answer.op) hcommit
    exact e s
  all_goals cases ho

/-- Among the rows with an op code EXTRACT_ONE is issued by its own alone. -/
theorem Issues.opCode_extractOne (hk : Issues i .extractOne) (ho : opCode i = some op) : op = 0x08#8 := by
  cases hk <;> cases ho
  rfl

/-- Among the rows with an op code DECODE is issued by its own alone. -/
theorem Issues.opCode_decode {msg : List Byte} (hk : Issues i (.decode msg)) (ho : opCode i = some op) :
    op = 0x0B#8 := by
  cases hk <;> cases ho
  rfl

end OpCode

theorem Reason.code_range (r : Reason) : 1 ≤ r.code.toNat ∧ r.code.toNat ≤ 6 := by cases r <;> decide

/-! ## A frame into an empty buffer -/

/-- Into an empty buffer, a frame that fits is pushed and taken apart, and the block is as before (R91, R94; log 7). -/
theorem relayFrame_delivers (cfg : Cfg) (payload : List Byte) (b : Block) (hr : b.run = .active) (hb : b.fbuf = [])
    (hl : payload.length < 2 ^ 32) (hc : capAdmits cfg (4 + payload.length) = true) :
    relayFrame cfg payload b =
      ⟨b, [⟨opPush, okResp 0#32 []⟩, ⟨opExtractOne, okResp (BitVec.ofNat 32 payload.length) payload⟩], true⟩ := by
  have hpush : cmdPush cfg (frameBytes payload) b = ({ b with fbuf := frameBytes payload }, okResp 0#32 []) := by
    simp [cmdPush, whenActive_active, hr, hb, hc, frameBytes]
  have hextract : cmdExtractOne cfg { b with fbuf := frameBytes payload } =
      (b, okResp (BitVec.ofNat 32 payload.length) payload) := by
    have h := cmdExtractOne_frame cfg payload [] { b with fbuf := frameBytes payload } hr hl hc (by simp)
    rwa [← hb] at h
  rw [relayFrame, ← frameBytes, hpush, Relay.andThen_go _ _ rfl]
  simp only [issue_block, hextract]
  rfl

end Sys2Proof.Machine

/-! The statements about the encoding (30_encoding.md). -/

namespace Sys2Proof.Machine

/-- Settles O1, by the format of the row: CMD rows by the decoder's rows, reserved ones by their op codes, messages and
frames by the number read back from their first four bytes. -/
theorem decodeOfEncodeIsTheInstruction : Obligations.DecodeOfEncodeIsTheInstruction := by
  intro i hwf
  cases i with
  | reset | status | setMode | seed | nextBit | process | push | extractOne | make | encode | decode | close =>
    simp [encode, decode, bareCmd]
  | reserved00 | reserved0D | reserved0E | reserved10 | reserved20 | reserved40 | reserved80 =>
    exact congrArg Except.ok (decodeOp_of_opCode rfl rfl)
  | msgReseed body => exact decodeMsg_le32_append (tag := 1) (by decide) body
  | msgData body => exact decodeMsg_le32_append (tag := 2) (by decide) body
  | msgUnrecognised tag body =>
    obtain ⟨h1, h2⟩ : tag ≠ 1#32 ∧ tag ≠ 2#32 := by simpa [Instr.wellFormed] using hwf
    have hn1 : tag.toNat ≠ 1 := fun h => h1 (BitVec.eq_of_toNat_eq h)
    have hn2 : tag.toNat ≠ 2 := fun h => h2 (BitVec.eq_of_toNat_eq h)
    simp [encode, decode, decodeMsg_le32_append tag.isLt, hn1, hn2]
  | frame payload => exact decodeFrame_frameBytes (by simpa [Instr.wellFormed] using hwf)
  | txData | rxDrain => rfl

/-- Settles O3: the two records are fetched as one instruction, and the high bits of `SW` are in its layout (R28). -/
theorem unusedCmdFieldsAreIgnored : Obligations.UnusedCmdFieldsAreIgnored := by
  refine ⟨fun c s rest => ?_, fun b => ?_⟩
  · rw [step_cons _ _ rest rfl, step_cons _ _ rest rfl, fetched_cmd, fetched_cmd, decodeCmd_usedFields]
  · obtain ⟨_, _, _, _, _, _, hzero⟩ := statusWordHasTheLayout b
    exact hzero

/-- Settles O9: a CMD record is one command, answered under its op code, and `Command.run_ends` says how it ends. -/
theorem everyCommandEndsInOneOfFourWays : Obligations.EveryCommandEndsInOneOfFourWays := by
  intro s c rest hp
  have ho := opCode_decodeCmd c
  obtain ⟨k, hk, e⟩ := exec_of_opCode ho
  refine ⟨_, _, (step_cons s _ rest hp).trans (e _), rfl, rfl, ?_⟩
  have hends := k.run_ends Config.config s.block
  simp only [State.commit_block]
  generalize k.run Config.config s.block = r at hends ⊢
  cases hends with
  | ok => exact .inl rfl
  | nothing => exact .inr (.inl ⟨rfl, hk.opCode_extractOne ho, rfl⟩)
  | extractFault v =>
    exact .inr (.inr (.inl ⟨_, _, rfl, .inl (hk.opCode_extractOne ho), .inl rfl, rfl⟩))
  | decodeFault msg cause v _ hc =>
    have hcode : cause.code = 1#4 ∨ cause.code = 2#4 := hc.imp (congrArg Cause.code) (congrArg Cause.code)
    exact .inr (.inr (.inl ⟨_, _, rfl, .inr (hk.opCode_decode ho), hcode, rfl⟩))
  | refused _ reason =>
    obtain ⟨hmin, hmax⟩ := reason.code_range
    exact .inr (.inr (.inr ⟨rfl, rfl, hmin, hmax, rfl⟩))

/-- Settles O11: a reserved op code decodes to a reserved row that has it, which is refused before CLOSED is tested. -/
theorem reservedOpCodesAreRefused : Obligations.ReservedOpCodesAreRefused := by
  intro s c rest hp hop
  obtain ⟨hres, ho⟩ := decodeOp_reserved c.op hop
  rw [step_cons s _ rest hp, fetched_cmd, decodeCmd_reserved_fields _ _ _ _ c.op hop, exec_reserved _ _ _ hres ho]
  rfl

/-- Settles O2: seven closed words, by evaluation. -/
theorem sampleWordsDecodeAsTheSpecSays : Obligations.SampleWordsDecodeAsTheSpecSays := by
  unfold Obligations.SampleWordsDecodeAsTheSpecSays
  decide

/-- Settles O12, each row by `exec_reserved`. -/
theorem reservedRowsAnswerIllegalCommand : Obligations.ReservedRowsAnswerIllegalCommand := by
  intro s
  have hrow := fun i op hi ho => exec_reserved i op s hi ho
  exact ⟨hrow _ _ rfl rfl, hrow _ _ rfl rfl, fun _ => hrow _ _ rfl rfl, fun _ => hrow _ _ rfl rfl,
    fun _ => hrow _ _ rfl rfl, fun _ => hrow _ _ rfl rfl, fun _ => hrow _ _ rfl rfl⟩

/-- Settles O46, from the run of the FRAME row's two commands under every configuration (log 7). -/
theorem frameRowDeliversItsPayload : Obligations.FrameRowDeliversItsPayload := by
  intro s payload hr hb hl hcap
  have hframe := relayFrame_delivers Config.config payload s.block hr hb hl ((capAdmits_eq_true_iff _ _).mpr hcap)
  exact congrArg (fun x : Relay => Host.Outcome.next (s.finish x.block x.answers)) hframe

end Sys2Proof.Machine

/-! SUPPORT. LFSR_NEXT as arithmetic (40_keystream.md R72, R73), one step of all LFSRs and the address of a refill
(R74). -/

namespace Sys2Proof.Machine

/-! ## One LFSR -/

/-- The new register: shifted, cut to the width, and XORed with the polynomial if the top bit was 1 (R72). -/
theorem lfsrNext_snd (l : Lfsr) (s : Nat) :
    (lfsrNext l s).2 = (2 * s % 2 ^ l.width) ^^^ (if (lfsrNext l s).1 = true then l.polyLow else 0) := by
  simp only [lfsrNext, Nat.shiftLeft_eq, pow_one, Nat.mul_comm s 2]
  split <;> simp

/-- The top bit of a number that fits the width. -/
theorem lfsrNext_fst (l : Lfsr) (s : Nat) (hw : 1 ≤ l.width) (hs : s < 2 ^ l.width) :
    (lfsrNext l s).1 = decide (2 ^ (l.width - 1) ≤ s) := by
  change s.testBit (l.width - 1) = _
  by_cases h : 2 ^ (l.width - 1) ≤ s
  · rw [Nat.testBit_of_two_pow_le_and_two_pow_add_one_gt h (by rwa [Nat.sub_add_cancel hw]), decide_eq_true h]
  · rw [Nat.testBit_lt_two_pow (Nat.lt_of_not_le h), decide_eq_false h]

theorem lfsrNext_zero (l : Lfsr) : lfsrNext l 0 = (false, 0) := by simp [lfsrNext]

/-- The returned bit is linear over GF(2) (R73 (e)). -/
theorem lfsrNext_xor_fst (l : Lfsr) (s t : Nat) :
    (lfsrNext l (s ^^^ t)).1 = ((lfsrNext l s).1 ^^ (lfsrNext l t).1) :=
  Nat.testBit_xor ..

/-- The step is linear over GF(2) (R73 (e)). -/
theorem lfsrNext_xor_snd (l : Lfsr) (s t : Nat) :
    (lfsrNext l (s ^^^ t)).2 = (lfsrNext l s).2 ^^^ (lfsrNext l t).2 := by
  have hshift : 2 * (s ^^^ t) % 2 ^ l.width = (2 * s % 2 ^ l.width) ^^^ (2 * t % 2 ^ l.width) := by
    rw [← Nat.xor_mod_two_pow]
    have hxor : (s ^^^ t) <<< 1 = s <<< 1 ^^^ t <<< 1 := Nat.shiftLeft_xor_distrib
    simpa [Nat.shiftLeft_eq, Nat.mul_comm 2] using congrArg (· % 2 ^ l.width) hxor
  have hpoly : (if (lfsrNext l (s ^^^ t)).1 = true then l.polyLow else 0) =
      (if (lfsrNext l s).1 = true then l.polyLow else 0) ^^^ (if (lfsrNext l t).1 = true then l.polyLow else 0) := by
    rw [lfsrNext_xor_fst]
    cases (lfsrNext l s).1 <;> cases (lfsrNext l t).1 <;> simp
  rw [lfsrNext_snd, lfsrNext_snd l s, lfsrNext_snd l t, hshift, hpoly]
  ac_rfl

theorem lfsrIter_succ (l : Lfsr) (n s : Nat) : lfsrIter l (n + 1) s = lfsrIter l n (lfsrNext l s).2 := rfl

theorem lfsrIter_add (l : Lfsr) (m n s : Nat) : lfsrIter l (m + n) s = lfsrIter l n (lfsrIter l m s) := by
  induction m generalizing s with
  | zero => simp [lfsrIter]
  | succ m ih => rw [Nat.succ_add, lfsrIter_succ, lfsrIter_succ, ih]

/-- Without a tap below the width the steps only shift (R73 (c)). -/
theorem lfsrIter_of_polyLow_zero (l : Lfsr) (hp : l.polyLow = 0) (n s : Nat) (hs : s < 2 ^ l.width) :
    lfsrIter l n s = s * 2 ^ n % 2 ^ l.width := by
  induction n generalizing s with
  | zero => simpa [lfsrIter] using (Nat.mod_eq_of_lt hs).symm
  | succ n ih =>
    have hnext : (lfsrNext l s).2 = 2 * s % 2 ^ l.width := by simp [lfsrNext_snd, hp]
    rw [lfsrIter_succ, ih _ (lfsrNext_lt l s), hnext, Nat.mod_mul_mod, pow_succ]
    congr 1
    ring

/-! ## All LFSRs of a lane -/

/-- The XOR of the bits that all LFSRs return at one step. -/
theorem stepAll_bit (ls : List Lfsr) (ss : List Nat) :
    (stepAll ls ss).1 = (List.zipWith (fun l s => (lfsrNext l s).1) ls ss).foldl Bool.xor false := by
  have hcomm : Std.Commutative Bool.xor := ⟨Bool.xor_comm⟩
  rw [List.foldl_eq_foldr]
  induction ls generalizing ss with
  | nil => rfl
  | cons l ls ih =>
    cases ss with
    | nil => rfl
    | cons s ss => simp [stepAll, ih]

/-- All LFSRs after `n` steps of each. -/
def iterAll (ls : List Lfsr) (n : Nat) (regs : List Nat) : List Nat :=
  List.zipWith (fun l s => lfsrIter l n s) ls regs

@[simp] theorem iterAll_length (ls : List Lfsr) (n : Nat) (regs : List Nat) (h : regs.length = ls.length) :
    (iterAll ls n regs).length = ls.length := by
  simp [iterAll, h]

theorem iterAll_zero (ls : List Lfsr) (regs : List Nat) (h : regs.length = ls.length) : iterAll ls 0 regs = regs := by
  induction ls generalizing regs with
  | nil => simpa [iterAll, eq_comm] using h
  | cons l ls ih =>
    cases regs with
    | nil => simp at h
    | cons s ss => simpa [iterAll, lfsrIter] using ih ss (by simpa using h)

/-- What is read off registers that have stepped is read off each LFSR's own register after its steps (R73 (d)). -/
theorem zipWith_iterAll {α : Type} (f : Lfsr → Nat → α) (ls : List Lfsr) (n : Nat) (regs : List Nat) :
    List.zipWith f ls (iterAll ls n regs) = List.zipWith (fun l s => f l (lfsrIter l n s)) ls regs := by
  induction ls generalizing regs with
  | nil => rfl
  | cons l ls ih =>
    cases regs with
    | nil => rfl
    | cons s ss => exact congrArg (List.cons _) (ih ss)

theorem iterAll_add (ls : List Lfsr) (m n : Nat) (regs : List Nat) :
    iterAll ls (m + n) regs = iterAll ls n (iterAll ls m regs) := by
  simp only [iterAll, lfsrIter_add]
  exact (zipWith_iterAll (fun l s => lfsrIter l n s) ls m regs).symm

theorem stepAll_regs_iterAll (ls : List Lfsr) (regs : List Nat) (h : regs.length = ls.length) :
    (stepAll ls regs).2 = iterAll ls 1 regs :=
  stepAll_regs ls regs h

/-- The first XOR result of a refill is that of one step of all LFSRs. -/
theorem addrBit_zero (cfg : Cfg) (regs : List Nat) : addrBit cfg regs 0 = (stepAll cfg.lfsrs regs).1 :=
  (stepAll_bit cfg.lfsrs regs).symm

theorem addrBit_succ (cfg : Cfg) (regs : List Nat) (i : Nat) :
    addrBit cfg regs (i + 1) = addrBit cfg (iterAll cfg.lfsrs 1 regs) i :=
  congrArg (List.foldl Bool.xor false)
    (zipWith_iterAll (fun l s => (lfsrNext l (lfsrIter l i s)).1) cfg.lfsrs 1 regs).symm

/-! ## The address of a refill -/

/-- An address with its bit number `i` put in, in the order `ADDR_MSB_FIRST` says (R10, R74). -/
def addrPush (cfg : Cfg) (i addr : Nat) (x : Bool) : Nat :=
  if cfg.addrMsbFirst then (addr <<< 1) + bitVal x else addr + (bitVal x <<< i)

theorem addrLoop_succ (cfg : Cfg) (n i addr : Nat) (regs : List Nat) :
    addrLoop cfg (n + 1) i addr regs =
      addrLoop cfg n (i + 1) (addrPush cfg i addr (stepAll cfg.lfsrs regs).1) (stepAll cfg.lfsrs regs).2 := rfl

/-- Where XOR result `i` stands in an address of `n` bits (R10, R41). -/
def addrPos (cfg : Cfg) (n i : Nat) : Nat := if cfg.addrMsbFirst = true then n - 1 - i else i

theorem addrPush_lt (cfg : Cfg) (i addr : Nat) (x : Bool) (h : addr < 2 ^ i) : addrPush cfg i addr x < 2 ^ (i + 1) := by
  have hx : bitVal x ≤ 1 := by cases x <;> decide
  have hshift : bitVal x * 2 ^ i ≤ 2 ^ i := by simpa using Nat.mul_le_mul_right (2 ^ i) hx
  rw [addrPush, Nat.shiftLeft_eq, Nat.shiftLeft_eq, pow_succ]
  split <;> omega

/-- The new bit stands at its place and the earlier ones at theirs. -/
theorem testBit_addrPush (cfg : Cfg) (i addr : Nat) (x : Bool) (h : addr < 2 ^ i) (j : Nat) (hj : j ≤ i) :
    (addrPush cfg i addr x).testBit (addrPos cfg (i + 1) j) = if j = i then x else addr.testBit (addrPos cfg i j) := by
  cases hb : cfg.addrMsbFirst with
  | true =>
    have hpush : addrPush cfg i addr x = Nat.bit x addr := by
      cases x <;> simp [addrPush, hb, bitVal, Nat.bit, Nat.shiftLeft_eq, Nat.mul_comm]
    rw [hpush]
    by_cases hji : j = i
    · simp [addrPos, hb, hji]
    · have hpos : i - j = i - 1 - j + 1 := by omega
      simp [addrPos, hb, hji, hpos, Nat.testBit_bit_succ]
  | false =>
    have hpush : addrPush cfg i addr x = 2 ^ i * bitVal x + addr := by
      simp [addrPush, hb, Nat.shiftLeft_eq, Nat.mul_comm, Nat.add_comm]
    rw [hpush, Nat.testBit_two_pow_mul_add _ h]
    by_cases hji : j = i
    · cases x <;> simp [addrPos, hb, hji, bitVal]
    · simp [addrPos, hb, hji, lt_of_le_of_ne hj hji]

/-- A refill steps every LFSR once for each address bit (R74). -/
theorem addrLoop_snd (cfg : Cfg) (n i addr : Nat) (regs : List Nat) (h : regs.length = cfg.nl) :
    (addrLoop cfg n i addr regs).2 = iterAll cfg.lfsrs n regs := by
  induction n generalizing i addr regs with
  | zero => exact (iterAll_zero _ _ h).symm
  | succ n ih =>
    rw [addrLoop_succ, stepAll_regs_iterAll _ _ h, ih _ _ _ (iterAll_length _ _ _ h), ← iterAll_add, Nat.add_comm]

/-- The address so far grows by the XOR results still to come, each at its place, and stays below the table's end. -/
theorem addrLoop_fst (cfg : Cfg) (n i addr : Nat) (regs : List Nat) (h : regs.length = cfg.nl) (ha : addr < 2 ^ i) :
    (addrLoop cfg n i addr regs).1 < 2 ^ (i + n) ∧
      ∀ j, j < i + n → (addrLoop cfg n i addr regs).1.testBit (addrPos cfg (i + n) j) =
        if j < i then addr.testBit (addrPos cfg i j) else addrBit cfg regs (j - i) := by
  induction n generalizing i addr regs with
  | zero => exact ⟨ha, fun j hj => by simp [addrLoop, show j < i from hj]⟩
  | succ n ih =>
    have hlt := addrPush_lt cfg i addr (stepAll cfg.lfsrs regs).1 ha
    obtain ⟨hbound, hbits⟩ := ih (i + 1) _ (iterAll cfg.lfsrs 1 regs) (iterAll_length _ _ _ h) hlt
    rw [addrLoop_succ, stepAll_regs_iterAll _ _ h, show i + (n + 1) = i + 1 + n by omega]
    refine ⟨hbound, fun j hj => ?_⟩
    rw [hbits j hj]
    rcases Nat.lt_trichotomy j i with hji | rfl | hji
    · rw [if_pos (by omega), if_pos hji, testBit_addrPush cfg i addr _ ha j hji.le, if_neg hji.ne]
    · rw [if_pos (by omega), if_neg (by omega), testBit_addrPush cfg j addr _ ha j le_rfl, if_pos rfl, Nat.sub_self,
        addrBit_zero]
    · rw [if_neg (by omega), if_neg (by omega), ← addrBit_succ, show j - (i + 1) + 1 = j - i by omega]

/-- A refill advances every LFSR by `K` steps (R74). -/
theorem refill_lfsr (cfg : Cfg) (l : LaneState) (h : l.lfsr.length = cfg.nl) :
    (refill cfg l).lfsr = iterAll cfg.lfsrs cfg.k l.lfsr :=
  addrLoop_snd cfg cfg.k 0 0 l.lfsr h

end Sys2Proof.Machine

/-! SUPPORT. What SEED loads (40_keystream.md R75, R76) and what successive KBITs give (R78, R79): whole queues, and the
same bits on lanes at one keystream state. -/

namespace Sys2Proof.Machine

/-! ## SEED -/

/-- Register `j` gets its width in bits, from where the registers before it end (R75). -/
theorem splitSeed_getElem? (ws : List Nat) (x j w : Nat) (h : ws[j]? = some w) :
    (splitSeed ws x)[j]? = some (x / 2 ^ (ws.take j).sum % 2 ^ w) := by
  induction ws generalizing x j with
  | nil => simp at h
  | cons v ws ih =>
    cases j with
    | zero =>
      obtain rfl : v = w := by simpa using h
      simp [splitSeed]
    | succ j =>
      have hrest := ih (x >>> v) j (by simpa using h)
      simpa [splitSeed, Nat.shiftRight_eq_div_pow, Nat.div_div_eq_div_mul, ← pow_add] using hrest

/-- The first `n` digests of a seed expansion, joined (R76). -/
def digests (cfg : Cfg) (secret iv : List Byte) (demand n : Nat) : List Byte :=
  ((List.range n).map fun i => cfg.hash (secret ++ iv ++ cfg.demandEnc demand i (8 * (i * cfg.hlen)))).flatten

/-- How many digests a demand takes (R76). -/
def digestCount (cfg : Cfg) (demand : Nat) : Nat := (demand + (8 * cfg.hlen - 1)) / (8 * cfg.hlen)

section Digests

variable {cfg : Cfg} (hcfg : cfg.Valid) (secret iv : List Byte) (demand : Nat)
include hcfg

theorem digests_length (n : Nat) : (digests cfg secret iv demand n).length = n * cfg.hlen := by
  simp [digests, List.length_flatten, Function.comp_def, hcfg.hash_length]

theorem digests_succ (i : Nat) :
    digests cfg secret iv demand (i + 1) = digests cfg secret iv demand i ++
      cfg.hash (secret ++ iv ++ cfg.demandEnc demand i (8 * (digests cfg secret iv demand i).length)) := by
  rw [digests_length hcfg]
  simp [digests, List.range_succ]

/-- `digestCount` is the least number of digests that meets the demand. -/
theorem lt_digestCount_iff (i : Nat) : i < digestCount cfg demand ↔ 8 * (i * cfg.hlen) < demand := by
  have hpos := hcfg.hlen_pos
  rw [digestCount, Nat.lt_iff_add_one_le, Nat.le_div_iff_mul_le (by omega)]
  have hmul : (i + 1) * (8 * cfg.hlen) = 8 * (i * cfg.hlen) + 8 * cfg.hlen := by ring
  omega

theorem digestCount_le : digestCount cfg demand ≤ demand := by
  by_contra h
  have hlt := (lt_digestCount_iff hcfg demand demand).mp (Nat.lt_of_not_le h)
  have hle := Nat.le_mul_of_pos_right demand hcfg.hlen_pos
  omega

/-- The loop, entered after `i` digests with enough fuel, ends with all it takes (R76; log 13). -/
theorem digestLoop_eq_digests (fuel i : Nat) (hi : i ≤ digestCount cfg demand)
    (hf : digestCount cfg demand ≤ i + fuel) :
    digestLoop cfg secret iv demand fuel i (digests cfg secret iv demand i) =
      digests cfg secret iv demand (digestCount cfg demand) := by
  induction fuel generalizing i with
  | zero => rw [show digestCount cfg demand = i by omega]; rfl
  | succ fuel ih =>
    rw [digestLoop, ← digests_succ hcfg, digests_length hcfg]
    by_cases hlt : i < digestCount cfg demand
    · rw [if_pos ((lt_digestCount_iff hcfg demand i).mp hlt)]
      exact ih (i + 1) hlt (by omega)
    · rw [if_neg (mt (lt_digestCount_iff hcfg demand i).mpr hlt), show digestCount cfg demand = i by omega]

/-- The seed integer reads just enough digests (R76). -/
theorem seedExpand_eq : seedExpand cfg secret iv demand =
    beInt (digests cfg secret iv demand (digestCount cfg demand)) :=
  congrArg beInt (digestLoop_eq_digests hcfg secret iv demand demand 0 (Nat.zero_le _)
    (by simpa using digestCount_le hcfg demand))

/-- The seed integer is a function of secret and iv joined (R77 (b)). -/
theorem seedExpand_congr {secret' iv' : List Byte} (h : secret ++ iv = secret' ++ iv') :
    seedExpand cfg secret iv demand = seedExpand cfg secret' iv' demand := by
  rw [seedExpand_eq hcfg, seedExpand_eq hcfg, digests, digests, h]

end Digests

/-! ## Lanes at one keystream state -/

section Same

variable {cfg : Cfg} {l l' : LaneState} (h : sameKeystream l l')
include h

/-- KBIT gives the same bit at the same keystream state and leaves the same keystream state. -/
theorem kbit_congr : (kbit cfg l).1 = (kbit cfg l').1 ∧ sameKeystream (kbit cfg l).2 (kbit cfg l').2 := by
  obtain ⟨hregs, hqueue⟩ := h
  have hl' : l' = { l with seeded := l'.seeded, mode := l'.mode } := by rw [hregs, hqueue]
  have hkbit := (congrArg (kbit cfg) hl').trans (kbit_with cfg l l'.seeded l'.mode)
  rw [hkbit]
  exact ⟨rfl, rfl, rfl⟩

theorem kbits_congr (n : Nat) :
    (kbits cfg n l).1 = (kbits cfg n l').1 ∧ sameKeystream (kbits cfg n l).2 (kbits cfg n l').2 := by
  induction n generalizing l l' with
  | zero => exact ⟨rfl, h⟩
  | succ n ih =>
    obtain ⟨hbit, hnext⟩ := kbit_congr (cfg := cfg) h
    obtain ⟨hbits, hlast⟩ := ih hnext
    exact ⟨congrArg₂ List.cons hbit hbits, hlast⟩

theorem ksByte_congr : (ksByte cfg l).1 = (ksByte cfg l').1 ∧ sameKeystream (ksByte cfg l).2 (ksByte cfg l').2 := by
  obtain ⟨hbits, hlast⟩ := kbits_congr (cfg := cfg) h 8
  exact ⟨congrArg (fun bits => BitVec.ofNat 8 (bitsValue bits)) hbits, hlast⟩

/-- What one lane enciphers, a lane at the same keystream state deciphers (R87). -/
theorem xorBuffer_cancel (buf : List Byte) :
    (xorBuffer cfg (xorBuffer cfg buf l).1 l').1 = buf ∧
      sameKeystream (xorBuffer cfg buf l).2 (xorBuffer cfg (xorBuffer cfg buf l).1 l').2 := by
  induction buf generalizing l l' with
  | nil => exact ⟨rfl, h⟩
  | cons x xs ih =>
    obtain ⟨hbyte, hnext⟩ := ksByte_congr (cfg := cfg) h
    obtain ⟨hrest, hlast⟩ := ih hnext
    refine ⟨?_, hlast⟩
    simp only [xorBuffer, hrest, ← hbyte, BitVec.xor_assoc, BitVec.xor_self, BitVec.xor_zero]

end Same

/-! ## Several bits -/

theorem kbits_succ (cfg : Cfg) (n : Nat) (l : LaneState) :
    kbits cfg (n + 1) l = ((kbit cfg l).1 :: (kbits cfg n (kbit cfg l).2).1, (kbits cfg n (kbit cfg l).2).2) := rfl

/-- Bit `k` of several is the one KBIT gives after `k` of them. -/
theorem kbits_eq_map (cfg : Cfg) (n : Nat) (l : LaneState) :
    (kbits cfg n l).1 = (List.range n).map fun k => (kbit cfg (kbits cfg k l).2).1 := by
  induction n with
  | zero => rfl
  | succ n ih => rw [kbits_add, ih, List.range_succ, List.map_append]; rfl

/-- While the queue lasts, the bits are its own. -/
theorem kbits_of_le_queue (cfg : Cfg) (n : Nat) (l : LaneState) (h : n ≤ l.queue.length) :
    kbits cfg n l = (l.queue.take n, { l with queue := l.queue.drop n }) := by
  induction n generalizing l with
  | zero => simp [kbits]
  | succ n ih =>
    obtain ⟨regs, queue, seeded, mode⟩ := l
    cases queue with
    | nil => simp at h
    | cons bit rest =>
      have hrest := ih ⟨regs, rest, seeded, mode⟩ (by simpa using h)
      simp [kbits_succ, kbit, popBit, hrest]

/-- On an empty queue, `M` bits are exactly the bits of one refill (R74, R78). -/
theorem kbits_refill (cfg : Cfg) (hm : 1 ≤ cfg.m) (l : LaneState) (hq : l.queue = []) :
    kbits cfg cfg.m l = ((refill cfg l).queue, { refill cfg l with queue := [] }) := by
  have hlen := refill_queue_length cfg l
  have hbit : kbit cfg l = kbit cfg (refill cfg l) := by
    obtain ⟨bit, rest, hqueue⟩ := List.exists_cons_of_length_pos (hlen ▸ hm)
    simp [kbit, hq, hqueue]
  have hbits : kbits cfg cfg.m l = kbits cfg cfg.m (refill cfg l) := by
    rw [show cfg.m = cfg.m - 1 + 1 by omega, kbits_succ, kbits_succ, hbit]
  rw [hbits, kbits_of_le_queue cfg cfg.m _ hlen.ge, ← hlen, List.take_length, List.drop_length]

/-- A whole number of refills uses up the queues they fill (R81). -/
theorem kbits_mul_queue (cfg : Cfg) (hm : 1 ≤ cfg.m) (n : Nat) (l : LaneState) (hq : l.queue = []) :
    (kbits cfg (cfg.m * n) l).2.queue = [] := by
  induction n generalizing l with
  | zero => exact hq
  | succ n ih =>
    rw [show cfg.m * (n + 1) = cfg.m + cfg.m * n by ring, kbits_add, kbits_refill cfg hm l hq]
    exact ih _ rfl

/-- The keystream of a freshly seeded lane does not depend on what the lane was (R79). -/
theorem keystreamBit_eq (cfg : Cfg) (secret iv : List Byte) (l : LaneState) (t : Nat) :
    keystreamBit cfg secret iv t = (kbit cfg (kbits cfg t (seedLane cfg secret iv l)).2).1 := by
  have h : sameKeystream (seedLane cfg secret iv ⟨[], [], false, .xor⟩) (seedLane cfg secret iv l) := ⟨rfl, rfl⟩
  obtain ⟨_, hlast⟩ := kbits_congr (cfg := cfg) h t
  obtain ⟨hbit, _⟩ := kbit_congr (cfg := cfg) hlast
  exact hbit

/-! ## The states of the registers are finitely many -/

/-- Register contents that fit the widths (R20). -/
theorem finite_regs_fit (ls : List Lfsr) :
    {regs : List Nat | List.Forall₂ (fun (f : Lfsr) (r : Nat) => r < 2 ^ f.width) ls regs}.Finite := by
  induction ls with
  | nil => exact (Set.finite_singleton []).subset fun regs h => by simpa using h
  | cons l ls ih =>
    refine ((Set.finite_Iio (2 ^ l.width)).image2 List.cons ih).subset fun regs h => ?_
    obtain ⟨r, rs, hr, hrs, rfl⟩ := List.forall₂_cons_left_iff.mp h
    exact ⟨r, hr, rs, hrs, rfl⟩

/-- A seeded lane comes back to a keystream state after a whole number of refills, all of whose queues are used up
(R81). -/
theorem exists_sameKeystream_kbits (cfg : Cfg) (hm : 1 ≤ cfg.m) (l : LaneState) (hl : LaneInv cfg l)
    (hs : l.seeded = true) (hq : l.queue = []) :
    ∃ i j, i < j ∧ sameKeystream (kbits cfg (cfg.m * i) l).2 (kbits cfg (cfg.m * j) l).2 := by
  have hfit : ∀ n, (kbits cfg (cfg.m * n) l).2.lfsr ∈
      {regs : List Nat | List.Forall₂ (fun (f : Lfsr) (r : Nat) => r < 2 ^ f.width) cfg.lfsrs regs} :=
    fun n => (hl.kbits _ hs).regs_fit (by simp [hs])
  obtain ⟨i, j, hij, hregs⟩ := (finite_regs_fit cfg.lfsrs).exists_lt_map_eq_of_forall_mem hfit
  exact ⟨i, j, hij, hregs, by rw [kbits_mul_queue cfg hm i l hq, kbits_mul_queue cfg hm j l hq]⟩

end Sys2Proof.Machine

/-! SUPPORT. SEED, NEXT_BIT and PROCESS on an ACTIVE block, and runs of NEXT_BIT or of PROCESS on one lane
(40_keystream.md R75, R78; 41_cipher.md R84). -/

namespace Sys2Proof.Machine

/-- The answer of SEED (R75). -/
def seedAnswer : Answer := ⟨opSeed, okResp 0#32 []⟩

/-- The answer of NEXT_BIT that returns `bit` (R78). -/
def nextBitAnswer (bit : Bool) : Answer := ⟨opNextBit, okResp (BitVec.ofNat 32 (bitVal bit)) []⟩

/-- The answer of PROCESS that returns `out` (R84). -/
def processAnswer (out : List Byte) : Answer := ⟨opProcess, okResp 0#32 out⟩

theorem nextBitAnswer_eq (bit : Bool) :
    nextBitAnswer bit = ⟨0x05#8, ⟨0#8, if bit = true then 1#32 else 0#32, []⟩⟩ := by
  cases bit <;> rfl

/-! ## PROCESS of several buffers -/

@[simp] theorem processLane_mode (cfg : Cfg) (buf : List Byte) (l : LaneState) :
    (processLane cfg buf l).2.mode = l.mode := by
  unfold processLane
  split <;> simp

theorem processLane_identity (cfg : Cfg) (buf : List Byte) (l : LaneState) (hm : l.mode = .identity) :
    processLane cfg buf l = (buf, l) := by
  simp [processLane, hm]

theorem processLane_xor (cfg : Cfg) (buf : List Byte) (l : LaneState) (hm : l.mode = .xor) :
    processLane cfg buf l = xorBuffer cfg buf l := by
  simp [processLane, hm]

/-- PROCESS of two buffers joined is PROCESS of one and then the other, in either mode (R85 (c), R86). -/
theorem processLane_append (cfg : Cfg) (x y : List Byte) (l : LaneState) :
    processLane cfg (x ++ y) l =
      ((processLane cfg x l).1 ++ (processLane cfg y (processLane cfg x l).2).1,
        (processLane cfg y (processLane cfg x l).2).2) := by
  cases hm : l.mode with
  | identity => simp only [processLane_identity _ _ _ hm]
  | xor =>
    have hx := processLane_xor cfg x l hm
    have hm' : (xorBuffer cfg x l).2.mode = .xor := by rw [xorBuffer_mode, hm]
    rw [hx, processLane_xor _ _ _ hm, processLane_xor _ _ _ hm', xorBuffer_append]

/-- Several buffers, each in a PROCESS of its own, give what one PROCESS gives of them joined. -/
theorem processEach_flatten (cfg : Cfg) (ms : List (List Byte)) (l : LaneState) :
    processLane cfg ms.flatten l = ((processEach cfg ms l).1.flatten, (processEach cfg ms l).2) := by
  induction ms generalizing l with
  | nil => cases hm : l.mode <;> simp [processLane, processEach, xorBuffer, hm]
  | cons m ms ih => rw [List.flatten_cons, processLane_append, ih]; rfl

/-! ## The commands on an ACTIVE block -/

section Active

variable {s : State} {c : Lane} (hr : s.block.run = .active)
include hr

theorem exec_seed_active (secret iv : List Byte) :
    exec (.seed c secret iv) s =
      .next (s.finish (s.block.setLane c (seedLane Config.config secret iv (s.block.lane c))) [seedAnswer]) :=
  congrArg (fun r => Host.Outcome.next (s.commit opSeed r)) (whenActive_active _ _ hr)

theorem exec_nextBit_seeded (hs : (s.block.lane c).seeded = true) :
    exec (.nextBit c) s =
      .next (s.finish (s.block.setLane c (kbit Config.config (s.block.lane c)).2)
        [nextBitAnswer (kbit Config.config (s.block.lane c)).1]) := by
  have e : cmdNextBit Config.config c s.block =
      (s.block.setLane c (kbit Config.config (s.block.lane c)).2,
        (nextBitAnswer (kbit Config.config (s.block.lane c)).1).resp) := by
    simp [cmdNextBit, whenActive_active, hr, hs, nextBitAnswer]
  exact congrArg (fun r => Host.Outcome.next (s.commit opNextBit r)) e

theorem exec_process_accepts (ha : (s.block.lane c).accepts) (buf : List Byte) :
    exec (.process c buf) s =
      .next (s.finish (s.block.setLane c (processLane Config.config buf (s.block.lane c)).2)
        [processAnswer (processLane Config.config buf (s.block.lane c)).1]) :=
  congrArg (fun r => Host.Outcome.next (s.commit opProcess r)) (cmdProcess_of_accepts _ c buf s.block hr ha)

/-- `n` NEXT_BITs of a seeded lane return its next `n` keystream bits (R78). -/
theorem runAll_nextBits (hs : (s.block.lane c).seeded = true) (n : Nat) :
    ∃ t, runAll (List.replicate n (.nextBit c)) s =
        some (t, (kbits Config.config n (s.block.lane c)).1.map nextBitAnswer) ∧
      t.block = s.block.setLane c (kbits Config.config n (s.block.lane c)).2 := by
  induction n generalizing s with
  | zero => exact ⟨s, rfl, by simp [kbits]⟩
  | succ n ih =>
    have hexec := exec_nextBit_seeded hr hs
    obtain ⟨t, hrun, hblock⟩ := ih (s := s.finish (s.block.setLane c (kbit Config.config (s.block.lane c)).2)
      [nextBitAnswer (kbit Config.config (s.block.lane c)).1]) (by simpa using hr) (by simpa using hs)
    refine ⟨t, ?_, ?_⟩
    · rw [List.replicate_succ, runAll_cons _ _ _ _ _ _ hexec hrun]
      simp [kbits_succ]
    · simpa [kbits_succ] using hblock

/-- PROCESS of several buffers in successive commands answers what `processEach` gives (R84, R86). -/
theorem runAll_process (ha : (s.block.lane c).accepts) (pieces : List (List Byte)) :
    ∃ t, runAll (pieces.map (.process c)) s =
        some (t, (processEach Config.config pieces (s.block.lane c)).1.map processAnswer) ∧
      t.block = s.block.setLane c (processEach Config.config pieces (s.block.lane c)).2 := by
  induction pieces generalizing s with
  | nil => exact ⟨s, rfl, by simp [processEach]⟩
  | cons x pieces ih =>
    have hexec := exec_process_accepts hr ha x
    have hnext := processLane_accepts Config.config x _ ha
    obtain ⟨t, hrun, hblock⟩ := ih
      (s := s.finish (s.block.setLane c (processLane Config.config x (s.block.lane c)).2)
        [processAnswer (processLane Config.config x (s.block.lane c)).1])
      (by simpa using hr) (by simpa using hnext)
    refine ⟨t, ?_, ?_⟩
    · rw [List.map_cons, runAll_cons _ _ _ _ _ _ hexec hrun]
      simp [processEach]
    · simpa [processEach] using hblock

/-- On an XOR lane, the outputs joined and the lane afterwards are those of the XOR transform of the buffers joined,
however they are split into commands (R84, R85 (c)). -/
theorem runAll_process_xor (hm : (s.block.lane c).mode = .xor) (hs : (s.block.lane c).seeded = true)
    (pieces : List (List Byte)) :
    ∃ t as, runAll (pieces.map (.process c)) s = some (t, as) ∧
      (as.map fun a => a.resp.out).flatten = (xorBuffer Config.config pieces.flatten (s.block.lane c)).1 ∧
      t.block.lane c = (xorBuffer Config.config pieces.flatten (s.block.lane c)).2 := by
  obtain ⟨t, hrun, hblock⟩ := runAll_process hr (.inr hs) pieces
  have hjoin := processEach_flatten Config.config pieces (s.block.lane c)
  rw [processLane_xor _ _ _ hm] at hjoin
  refine ⟨t, _, hrun, ?_, by rw [hblock, hjoin, Block.lane_setLane_same]⟩
  rw [hjoin, List.map_map, show (fun a : Answer => a.resp.out) ∘ processAnswer = id from rfl, List.map_id]

end Active

end Sys2Proof.Machine

/-! The statements about the keystream (40_keystream.md) and about the bits PROCESS takes of it (41_cipher.md). -/

namespace Sys2Proof.Machine

/-- Settles O21: the two forms agree because the polynomial cut to the width is `POLYLOW`. -/
theorem lfsrStepShiftsThenXors : Obligations.LfsrStepShiftsThenXors := by
  intro l s hw hs
  have htop := lfsrNext_fst l s hw hs
  have hnext := lfsrNext_snd l s
  rw [htop] at hnext
  refine ⟨htop, ?_, ?_, lfsrNext_lt l s⟩ <;> rw [hnext]
  · by_cases h : 2 ^ (l.width - 1) ≤ s <;> simp [h]
  · by_cases h : 2 ^ (l.width - 1) ≤ s <;> simp [h, Lfsr.polyLow, Nat.xor_mod_two_pow]

/-- Settles O22, each case by its lemma; a register that is only shifted is empty once shifted by its width. -/
theorem lfsrStepCornerCases : Obligations.LfsrStepCornerCases := by
  refine ⟨lfsrNext_zero, fun l hw => ⟨?_, by rw [lfsrNext_zero]⟩, fun l s hp hs => ?_, stepAll_regs,
    fun l s t => ⟨lfsrNext_xor_fst l s t, lfsrNext_xor_snd l s t⟩⟩
  · simp [lfsrNext, hw]
  · rw [lfsrIter_of_polyLow_zero l hp _ s hs, Nat.mul_mod_left]

/-- Settles O23: the address is inside the table because it has `K` bits and the table `2^K` entries. -/
theorem refillLooksUpOneSboxEntry : Obligations.RefillLooksUpOneSboxEntry := by
  intro cfg l hcfg hlen
  obtain ⟨hlt, hbits⟩ := addrLoop_fst cfg cfg.k 0 0 l.lfsr hlen (by simp)
  rw [Nat.zero_add] at hlt hbits
  have hentry := List.getElem?_eq_getElem (hcfg.sbox_length ▸ hlt)
  refine ⟨refill_lfsr cfg l hlen, rfl, rfl, _, _, hlt, fun i hi => ?_, hentry, ?_⟩
  · simpa [addrPos] using hbits i hi
  · simp [refill, lowBits, sboxRead, List.getD, hentry]

/-- Settles O24: a CLOSED block refuses, an ACTIVE one takes what `splitSeed` gives, register by register. -/
theorem seedSplitsTheSeedInteger : Obligations.SeedSplitsTheSeedInteger := by
  intro s c secret iv
  refine ⟨fun hr => ?_, fun hr => ⟨_, exec_seed_active hr secret iv, ?_, splitSeed_getElem? _ _⟩⟩
  · exact congrArg (fun r => Host.Outcome.next (s.commit opSeed r)) (whenActive_closed _ _ hr)
  · rw [splitSeed_length, Cfg.widths, List.length_map, Cfg.nl]

/-- Settles O25: the loop stops after `digestCount` digests, before its fuel is used up. -/
theorem seedExpansionMeetsTheDemand : Obligations.SeedExpansionMeetsTheDemand := by
  intro cfg secret iv demand hcfg
  refine ⟨digestCount cfg demand, digests cfg secret iv demand (digestCount cfg demand), rfl, rfl,
    seedExpand_eq hcfg secret iv demand, ?_⟩
  rw [digests_length hcfg]
  exact Nat.le_of_not_lt (mt (lt_digestCount_iff hcfg demand _).mpr (lt_irrefl _))

/-- Settles O27, by what KBIT does (`kbit_eq`); the refusal of an unseeded lane is in O28. -/
theorem nextBitReturnsTheQueueHead : Obligations.NextBitReturnsTheQueueHead := by
  intro s c
  refine ⟨fun hr => ?_, fun hr hs => ?_, fun hr hs l hl => ?_⟩
  · exact congrArg (fun r => Host.Outcome.next (s.commit opNextBit r)) (whenActive_closed _ _ hr)
  · obtain ⟨hrefused, _⟩ := unseededLaneIsRefused
    exact (hrefused s c [] hr hs).1
  · obtain ⟨bit, rest, hqueue, hkbit⟩ := kbit_eq Config.config Config.config_valid.m_pos (s.block.lane c)
    rw [← hl] at hqueue hkbit
    refine ⟨bit, rest, hqueue, ?_⟩
    rw [exec_nextBit_seeded hr hs, hkbit, nextBitAnswer_eq]

/-- Settles O29: NEXT_BIT returns the bits of the seeded lane, which do not depend on what the lane was before. -/
theorem seededKeystreamIsDeterministic : Obligations.SeededKeystreamIsDeterministic := by
  intro s c secret iv n hr
  have hseed := exec_seed_active (c := c) hr secret iv
  obtain ⟨t, hrun, _⟩ := runAll_nextBits (c := c)
    (s := s.finish (s.block.setLane c (seedLane Config.config secret iv (s.block.lane c))) [seedAnswer])
    (by simpa using hr) (by simp) n
  refine ⟨t, (runAll_cons _ _ _ _ _ _ hseed hrun).trans ?_⟩
  simp only [State.finish_block, Block.lane_setLane_same, kbits_eq_map, List.map_map, Function.comp_def,
    ← keystreamBit_eq, nextBitAnswer_eq]
  rfl

/-- Settles O30: the keystream state after `M * i` bits comes back after `M * j`, and the bits with it. -/
theorem keystreamIsEventuallyPeriodic : Obligations.KeystreamIsEventuallyPeriodic := by
  intro cfg secret iv hcfg
  obtain ⟨i, j, hij, hsame⟩ := exists_sameKeystream_kbits cfg hcfg.m_pos _
    (seedLane_inv cfg secret iv ⟨[], [], false, .xor⟩) rfl rfl
  refine ⟨j - i, cfg.m * i, by omega, fun t ht => ?_⟩
  obtain ⟨u, rfl⟩ := Nat.exists_eq_add_of_le ht
  have hperiod : cfg.m * i + u + cfg.m * (j - i) = cfg.m * j + u := by
    have hle := Nat.mul_le_mul_left cfg.m hij.le
    rw [Nat.mul_sub]
    omega
  obtain ⟨_, hlast⟩ := kbits_congr (cfg := cfg) hsame u
  obtain ⟨hbit, _⟩ := kbit_congr (cfg := cfg) hlast
  rw [hperiod, keystreamBit, keystreamBit, kbits_add, kbits_add]
  exact hbit.symm

/-- Settles O34: the second PROCESS runs on the lane the first left, as `processLane_append` has it. -/
theorem processSplitsAtAnyByte : Obligations.ProcessSplitsAtAnyByte := by
  intro s c x y hr ha
  have hx := exec_process_accepts hr ha x
  have hy := exec_process_accepts (c := c)
    (s := s.finish (s.block.setLane c (processLane Config.config x (s.block.lane c)).2)
      [processAnswer (processLane Config.config x (s.block.lane c)).1])
    (by simpa using hr) (by simpa using processLane_accepts Config.config x _ ha) y
  simp only [State.finish_block, Block.lane_setLane_same, Block.setLane_setLane] at hy
  refine ⟨_, _, _, ?_, runAll_cons _ _ _ _ _ _ hx (runAll_cons _ _ _ _ _ _ hy (runAll_nil _))⟩
  rw [exec_process_accepts hr ha, processLane_append]
  rfl

/-- Settles O35: both buffers meet the same keystream bytes, which cancel. -/
theorem keystreamIgnoresTheData : Obligations.KeystreamIgnoresTheData := by
  intro cfg l x y hlen
  refine ⟨by rw [xorBuffer_lane, xorBuffer_lane, hlen], ?_⟩
  induction x generalizing l y with
  | nil =>
    obtain rfl : y = [] := List.length_eq_zero_iff.mp hlen.symm
    rfl
  | cons a x ih =>
    cases y with
    | nil => simp at hlen
    | cons b y =>
      have hrest := ih (ksByte cfg l).2 y (by simpa using hlen)
      have hhead (k : Byte) : a ^^^ k ^^^ (b ^^^ k) = a ^^^ b := by
        rw [BitVec.xor_comm b k, BitVec.xor_assoc, ← BitVec.xor_assoc k, BitVec.xor_self, BitVec.zero_xor]
      simp [xorBuffer, hrest, hhead]

/-- Settles O36: eight bits are twice the four of a refill. -/
theorem byteTakesTwoRefillsWhenEntriesAreNibbles : Obligations.ByteTakesTwoRefillsWhenEntriesAreNibbles := by
  intro cfg l hcfg hm hlen hq
  have hstate : (ksByte cfg l).2 = { refill cfg { refill cfg l with queue := [] } with queue := [] } := by
    have hnibble := kbits_refill cfg hcfg.m_pos
    rw [hm] at hnibble
    change (kbits cfg (4 + 4) l).2 = _
    rw [kbits_add, hnibble l hq, hnibble _ rfl]
  have hfirst := refill_lfsr cfg l hlen
  have hsecond := refill_lfsr cfg { refill cfg l with queue := [] } (hfirst ▸ iterAll_length _ _ _ hlen)
  rw [hstate]
  refine ⟨?_, rfl⟩
  change (refill cfg { refill cfg l with queue := [] }).lfsr = iterAll cfg.lfsrs (2 * cfg.k) l.lfsr
  rw [hsecond, two_mul, iterAll_add, ← hfirst]

/-- Settles O37: joined, each side is one XOR transform, and the second undoes the first. -/
theorem processIsItsOwnInverseOnThePeerLane : Obligations.ProcessIsItsOwnInverseOnThePeerLane := by
  intro s s' c c' pieces pieces' t as hr hr' hm hm' hs hs' hsame hrun hpieces
  obtain ⟨t₁, as₁, hrun₁, hout, hlane⟩ := runAll_process_xor hr hm hs pieces
  obtain ⟨rfl, rfl⟩ : t₁ = t ∧ as₁ = as := by simpa using hrun₁.symm.trans hrun
  obtain ⟨t', as', hrun', hout', hlane'⟩ := runAll_process_xor hr' hm' hs' pieces'
  obtain ⟨hcancel, hlast⟩ := xorBuffer_cancel (cfg := Config.config) hsame pieces.flatten
  rw [hpieces, hout] at hout' hlane'
  exact ⟨t', as', hrun', hout'.trans hcancel, by rwa [hlane, hlane']⟩

/-- Settles O26: the seed integer is all that SEED reads of its operands. -/
theorem seedSeesOnlyTheConcatenation : Obligations.SeedSeesOnlyTheConcatenation := by
  intro s c secret iv secret' iv' h
  have hlane : seedLane Config.config secret iv = seedLane Config.config secret' iv' := by
    funext l
    rw [seedLane, seedLane, seedExpand_congr Config.config_valid _ _ _ h]
  simp only [exec_seed, Command.run, Block.onLane, LaneCmd.run, hlane]

end Sys2Proof.Machine

/-! SUPPORT. The keystream bits of PROCESS, bit by bit (41_cipher.md R84, 30_encoding.md R39), and what SET_MODE answers
on an ACTIVE block (R83). -/

namespace Sys2Proof.Machine

/-- The first bit is the least significant (R39). -/
theorem testBit_bitsValue (bits : List Bool) (p : Nat) : (bitsValue bits).testBit p = bits.getD p false := by
  induction bits generalizing p with
  | nil => simp [bitsValue]
  | cons bit bits ih =>
    cases p with
    | zero => cases bit <;> simp [bitsValue, bitVal]
    | succ p =>
      have hbit : bitVal bit < 2 := by cases bit <;> decide
      have hshift : (bitVal bit + 2 * bitsValue bits) / 2 = bitsValue bits := by omega
      rw [bitsValue, Nat.testBit_succ, hshift, ih, List.getD_cons_succ]

/-- Bit `p` of a keystream byte is the `p`-th of the eight bits it is made of. -/
theorem kbits_getElem?_ksByte (cfg : Cfg) (l : LaneState) (p : Nat) (hp : p < 8) :
    (kbits cfg 8 l).1[p]? = some ((ksByte cfg l).1.getLsbD p) := by
  have hlen : p < (kbits cfg 8 l).1.length := by simpa using hp
  rw [ksByte, BitVec.getLsbD_ofNat, testBit_bitsValue, List.getD_eq_getElem _ _ hlen, List.getElem?_eq_getElem hlen]
  simp [hp]

/-- Output byte `t` differs from input byte `t`, at bit `p`, by keystream bit `8 t + p` (R84). -/
theorem xorBuffer_bit (cfg : Cfg) (buf : List Byte) (l : LaneState) (t p : Nat) (x y : Byte) (hp : p < 8)
    (hx : buf[t]? = some x) (hy : (xorBuffer cfg buf l).1[t]? = some y) :
    some (y.getLsbD p ^^ x.getLsbD p) = (kbits cfg (8 * buf.length) l).1[8 * t + p]? := by
  induction buf generalizing l t with
  | nil => simp at hx
  | cons b bs ih =>
    have hbits : kbits cfg (8 * (b :: bs).length) l = kbits cfg (8 + 8 * bs.length) l := by
      rw [List.length_cons, Nat.mul_succ, Nat.add_comm]
    rw [hbits, kbits_add]
    cases t with
    | zero =>
      obtain rfl : b = x := by simpa using hx
      obtain rfl : b ^^^ (ksByte cfg l).1 = y := by simpa [xorBuffer] using hy
      rw [Nat.mul_zero, Nat.zero_add, List.getElem?_append_left (by simpa using hp), kbits_getElem?_ksByte cfg l p hp]
      simp [Bool.xor_comm]
    | succ t =>
      have hrest := ih (kbits cfg 8 l).2 t (by simpa using hx) (by simpa [xorBuffer, ksByte] using hy)
      rw [hrest, List.getElem?_append_right (by rw [kbits_length]; omega), kbits_length]
      congr 1
      omega

theorem cmdSetMode_accepts {arg : Word32} {m : Mode} {b : Block} (c : Lane) (hr : b.run = .active)
    (hm : modeOperand arg = some m) :
    cmdSetMode c arg b = (b.setLane c { b.lane c with mode := m }, okResp 0#32 []) := by
  simp [cmdSetMode, whenActive_active, hr, hm]

theorem cmdSetMode_bad_operand {arg : Word32} {b : Block} (c : Lane) (hr : b.run = .active) (h0 : arg ≠ 0#32)
    (h1 : arg ≠ 1#32) : cmdSetMode c arg b = refuse .badOperand b := by
  have hnone := (modeOperand_eq_none_iff arg).mpr ⟨h0, h1⟩
  simp [cmdSetMode, whenActive_active, hr, hnone]

end Sys2Proof.Machine

/-! The statements about the cipher's two commands (41_cipher.md). -/

namespace Sys2Proof.Machine

/-- Settles O33: an IDENTITY lane accepts PROCESS, which returns its input on it. -/
theorem identityLaneReturnsItsInput : Obligations.IdentityLaneReturnsItsInput := by
  intro s c buf hr hm
  rw [exec_process_accepts hr (.inl hm), processLane_identity _ _ _ hm, Block.setLane_lane]
  rfl

/-- Settles O31, by the operand. -/
theorem setModeWritesTheModeAlone : Obligations.SetModeWritesTheModeAlone := by
  intro s c
  have hexec {arg : Word32} {r : Block × Resp} (e : cmdSetMode c arg s.block = r) :
      exec (.setMode c arg) s = .next (s.commit opSetMode r) := by rw [← e]; rfl
  exact ⟨fun hr _ => hexec (whenActive_closed _ _ hr), fun hr => ⟨hexec (cmdSetMode_accepts c hr rfl),
    hexec (cmdSetMode_accepts c hr rfl), fun arg h0 h1 => hexec (cmdSetMode_bad_operand c hr h0 h1)⟩⟩

/-- Settles O32: the refusals and the IDENTITY lane as in O28 and O33; on a seeded XOR lane, the bits of
`xorBuffer_bit`. -/
theorem processXorsKeystreamBits : Obligations.ProcessXorsKeystreamBits := by
  intro s c buf
  refine ⟨fun hr => ?_, identityLaneReturnsItsInput s c buf, fun hr hm hs => ?_, fun hr hm hs => ?_⟩
  · exact congrArg (fun r => Host.Outcome.next (s.commit opProcess r)) (whenActive_closed _ _ hr)
  · obtain ⟨hrefused, _⟩ := unseededLaneIsRefused
    exact (hrefused s c buf hr hs).2 hm
  · refine ⟨(xorBuffer Config.config buf (s.block.lane c)).1, ?_, xorBuffer_length .., xorBuffer_bit _ _ _⟩
    rw [exec_process_accepts hr (.inr hs), processLane_xor _ _ _ hm, xorBuffer_lane]
    rfl

end Sys2Proof.Machine

/-! SUPPORT. Where a script stops (44_system_and_macros.md R112; log 7, log 8, log 10), and one round of RX_DRAIN's
feeding loop (R93, R114). -/

namespace Sys2Proof.Machine

/-- A refused command stops the script on the block as it is (R112, R124). -/
theorem issue_refuse_andThen (op : BitVec 8) (r : Reason) (b : Block) (f : Block → Relay) :
    (issue op (refuse r b)).andThen f = ⟨b, [⟨op, refusedResp r⟩], false⟩ :=
  Relay.andThen_stop _ _ rfl

/-- The part of a script after answers already given. -/
theorem Relay.mk_andThen (b : Block) (as : List Answer) (f : Block → Relay) :
    (Relay.mk b as true).andThen f = ⟨(f b).block, as ++ (f b).answers, (f b).goesOn⟩ := rfl

section Refused

variable (cfg : Cfg) {b : Block}

theorem relayFrame_push_refused {payload : List Byte} {r : Reason}
    (h : cmdPush cfg (frameBytes payload) b = refuse r b) :
    relayFrame cfg payload b = ⟨b, [⟨opPush, refusedResp r⟩], false⟩ := by
  rw [relayFrame, ← frameBytes, h, issue_refuse_andThen]

theorem relayRx_closed (hr : b.run = .closed) (bytes : List Byte) :
    relayRx cfg bytes b = ⟨b, [⟨opPush, refusedResp .closed⟩], false⟩ := by
  have hpush : cmdPush cfg bytes b = refuse .closed b := whenActive_closed _ _ hr
  have hne : refusedResp .closed ≠ refusedResp .framerFull := by decide
  simp only [relayRx, relayFeed, hpush, refuse_snd, if_neg hne, issue_refuse_andThen]

theorem relayTx_nil_closed (hr : b.run = .closed) :
    relayTx cfg [] b = ⟨b, [⟨opClose, refusedResp .closed⟩], false⟩ := by
  have hclose : cmdClose 4#32 b = refuse .closed b := whenActive_closed _ _ hr
  simp only [relayTx, hclose]
  rfl

theorem relayTx_process_refused {bytes : List Byte} {r : Reason} (hne : bytes ≠ [])
    (h : cmdProcess cfg .send bytes b = refuse r b) :
    relayTx cfg bytes b = ⟨b, [⟨opProcess, refusedResp r⟩], false⟩ := by
  obtain ⟨x, xs, rfl⟩ := List.exists_cons_of_ne_nil hne
  simp only [relayTx, h, issue_refuse_andThen]

theorem cmdProcess_unseeded (c : Lane) (buf : List Byte) (hr : b.run = .active) (hm : (b.lane c).mode = .xor)
    (hs : (b.lane c).seeded = false) : cmdProcess cfg c buf b = refuse .notSeeded b := by
  simp [cmdProcess, whenActive_active, hr, hm, hs]

/-- DECODE of a Data message (R103). -/
theorem cmdDecode_data (body : List Byte) (hr : b.run = .active) :
    cmdDecode (le32 2 ++ body) b = (b, okResp 2#32 body) := by
  simp [cmdDecode, whenActive_active, hr, readU32_le32_append, tagReseed, tagData]

/-- A Data message for an unseeded XOR lane is decoded and then refused by PROCESS (R115; log 10). -/
theorem relayMessage_unseeded (body : List Byte) (hr : b.run = .active) (hm : b.recv.mode = .xor)
    (hs : b.recv.seeded = false) :
    relayMessage cfg (le32 2 ++ body) b =
      ⟨b, [⟨opDecode, okResp 2#32 body⟩, ⟨opProcess, refusedResp .notSeeded⟩], false⟩ := by
  have hp := cmdProcess_unseeded cfg .recv body hr hm hs
  rw [relayMessage, cmdDecode_data body hr, Relay.andThen_go _ _ rfl]
  simp only [okResp_info, okResp_out, issue_block, issue_answers, if_true, hp]
  rfl

end Refused

/-! ## Data messages in the drain loop -/

/-- A body that fits in a Data message, a frame and the framer's capacity (R96, R98). -/
def Relayable (cfg : Cfg) (body : List Byte) : Prop := body.length + 4 < 2 ^ 32 ∧ capAdmits cfg (8 + body.length) = true

@[simp] theorem dataOnWire_length (body : List Byte) : (dataOnWire body).length = 8 + body.length := by
  rw [dataOnWire, frameBytes, List.length_append, List.length_append, le32_length, le32_length]
  omega

/-- The drain loop on a buffer that begins with a Data message's frame (R114). -/
theorem relayDrain_dataOnWire (cfg : Cfg) (fuel : Nat) {body more : List Byte} {b : Block} (hr : b.run = .active)
    (hfit : Relayable cfg body) (hb : b.fbuf = dataOnWire body ++ more) :
    relayDrain cfg (fuel + 1) b =
      (Relay.mk { b with fbuf := more }
        [⟨opExtractOne, okResp (BitVec.ofNat 32 (4 + body.length)) (le32 2 ++ body)⟩] true).andThen fun b1 =>
          (relayMessage cfg (le32 2 ++ body) b1).andThen fun b2 => relayDrain cfg fuel b2 := by
  obtain ⟨hl, hc⟩ := hfit
  have hlen : (le32 2 ++ body).length = 4 + body.length := by rw [List.length_append, le32_length]
  rw [relayDrain_frame cfg fuel (le32 2 ++ body) more b hr (by omega) (by rwa [hlen, ← Nat.add_assoc]) hb, hlen]

/-- A drain that meets a Data message for an unseeded XOR lane stops at PROCESS, the frame taken out and what follows
it kept. -/
theorem drainAll_unseeded (cfg : Cfg) {body more : List Byte} {b : Block} (hr : b.run = .active)
    (hm : b.recv.mode = .xor) (hs : b.recv.seeded = false) (hfit : Relayable cfg body)
    (hb : b.fbuf = dataOnWire body ++ more) :
    drainAll cfg b = ⟨{ b with fbuf := more },
      [⟨opExtractOne, okResp (BitVec.ofNat 32 (4 + body.length)) (le32 2 ++ body)⟩,
        ⟨opDecode, okResp 2#32 body⟩, ⟨opProcess, refusedResp .notSeeded⟩], false⟩ := by
  have hmessage := relayMessage_unseeded cfg (b := { b with fbuf := more }) body hr hm hs
  rw [drainAll, relayDrain_dataOnWire cfg _ hr hfit hb, Relay.mk_andThen, hmessage, Relay.andThen_stop _ _ rfl]
  rfl

section Feed

variable (cfg : Cfg) (fuel : Nat) (bytes : List Byte) (b : Block)

theorem cmdPush_fits (hr : b.run = .active) (hc : capAdmits cfg (b.fbuf.length + bytes.length) = true) :
    cmdPush cfg bytes b = ({ b with fbuf := b.fbuf ++ bytes }, okResp 0#32 []) := by
  simp [cmdPush, whenActive_active, hr, hc]

theorem cmdPush_full (hr : b.run = .active) (hc : capAdmits cfg (b.fbuf.length + bytes.length) = false) :
    cmdPush cfg bytes b = refuse .framerFull b := by
  simp [cmdPush, whenActive_active, hr, hc]

/-- A round whose bytes fit: PUSH and one drain. -/
theorem relayFeed_fits (hr : b.run = .active) (hc : capAdmits cfg (b.fbuf.length + bytes.length) = true) :
    relayFeed cfg (fuel + 1) bytes b =
      (Relay.mk { b with fbuf := b.fbuf ++ bytes } [⟨opPush, okResp 0#32 []⟩] true).andThen (drainAll cfg) := by
  have hne : okResp 0#32 [] ≠ refusedResp .framerFull := by decide
  simp only [relayFeed, cmdPush_fits cfg bytes b hr hc, if_neg hne]
  rfl

/-- A round whose bytes do not fit: the refused PUSH, a PUSH of as many as there is room for, a drain, and the next
round with the others (log 9). -/
theorem relayFeed_full {cap : Nat} (hcap : cfg.framerCap = some cap) (hr : b.run = .active) (hb : b.fbuf.length ≤ cap)
    (hfull : cap < b.fbuf.length + bytes.length) :
    relayFeed cfg (fuel + 1) bytes b =
      (Relay.mk { b with fbuf := b.fbuf ++ bytes.take (cap - b.fbuf.length) }
        [⟨opPush, refusedResp .framerFull⟩, ⟨opPush, okResp 0#32 []⟩] true).andThen fun b1 =>
          (drainAll cfg b1).andThen (relayFeed cfg fuel (bytes.drop (cap - b.fbuf.length))) := by
  have hpush := cmdPush_full cfg bytes b hr ((capAdmits_eq_false_iff _ _).mpr ⟨cap, hcap, hfull⟩)
  have hfits : capAdmits cfg (b.fbuf.length + (bytes.take (cap - b.fbuf.length)).length) = true := by
    refine (capAdmits_eq_true_iff _ _).mpr fun _ h => ?_
    obtain rfl := Option.some.inj (hcap.symm.trans h)
    rw [List.length_take]
    omega
  have htake := cmdPush_fits cfg _ b hr hfits
  simp only [relayFeed, hpush, refuse_snd, room, hcap, if_true, Relay.andThen, htake]
  rfl

end Feed

end Sys2Proof.Machine

/-! The statement about the refusals of the scripts (44_system_and_macros.md R112 to R114). -/

namespace Sys2Proof.Machine

/-- Settles O53: at the first command of each script on a CLOSED block, at PROCESS of TX_DATA, at PUSH of FRAME, and at
PROCESS of RX_DRAIN once PUSH, EXTRACT_ONE and DECODE have taken the message out of the buffer. -/
theorem scriptsStopAtARefusal : Obligations.ScriptsStopAtARefusal := by
  have hexec (s : State) {x y : Relay} (e : x = y) :
      (Host.Outcome.next (s.finish x.block x.answers) : Host.Outcome State Fault Refusal) =
        .next (s.finish y.block y.answers) := by rw [e]
  refine ⟨fun s bytes hr => ⟨?_, ?_, ?_⟩, fun s bytes hr hm hs hne => ?_, fun cfg cap payload b hr hcap hfull => ?_,
    fun cfg body more b hr hb hm hs hl hc => ?_, fun s bytes => ⟨rfl, rfl⟩⟩
  · exact hexec s (relayFrame_push_refused _ (whenActive_closed _ _ hr))
  · exact hexec s (relayRx_closed _ hr bytes)
  · by_cases hne : bytes = []
    · subst hne
      exact hexec s (relayTx_nil_closed _ hr)
    · rw [if_neg hne]
      exact hexec s (relayTx_process_refused _ hne (whenActive_closed _ _ hr))
  · exact hexec s (relayTx_process_refused _ hne (cmdProcess_unseeded _ .send bytes hr hm hs))
  · have hlen : cap < b.fbuf.length + (frameBytes payload).length := by simpa [frameBytes] using hfull
    exact relayFrame_push_refused cfg (cmdPush_full cfg _ b hr ((capAdmits_eq_false_iff _ _).mpr ⟨cap, hcap, hlen⟩))
  · have hfit : Relayable cfg body := ⟨hl, capAdmits_mono cfg _ _ (by simp) hc⟩
    have hdrain := drainAll_unseeded cfg (b := { b with fbuf := b.fbuf ++ (dataOnWire body ++ more) }) hr hm hs hfit
      (by rw [hb]; rfl)
    rw [relayRx_fits cfg _ b hr (by simpa [hb] using hc), Relay.mk_andThen, hdrain]
    rfl

end Sys2Proof.Machine

/-! SUPPORT. The sending end (44_system_and_macros.md R112): TX_DATA puts one Data message on the wire for each read;
and PROCESS on a paired lane undoes what PROCESS did to it (41_cipher.md R86 to R88). -/

namespace Sys2Proof.Machine

section ProcessEach

variable (cfg : Cfg)

theorem processEach_cons (m : List Byte) (ms : List (List Byte)) (l : LaneState) :
    processEach cfg (m :: ms) l =
      ((processLane cfg m l).1 :: (processEach cfg ms (processLane cfg m l).2).1,
        (processEach cfg ms (processLane cfg m l).2).2) := rfl

theorem processEach_append (ms ms' : List (List Byte)) (l : LaneState) :
    processEach cfg (ms ++ ms') l =
      ((processEach cfg ms l).1 ++ (processEach cfg ms' (processEach cfg ms l).2).1,
        (processEach cfg ms' (processEach cfg ms l).2).2) := by
  induction ms generalizing l with
  | nil => rfl
  | cons m ms ih => rw [List.cons_append, processEach_cons, ih]; rfl

theorem processEach_accepts (ms : List (List Byte)) (l : LaneState) (h : l.accepts) :
    (processEach cfg ms l).2.accepts := by
  induction ms generalizing l with
  | nil => exact h
  | cons m ms ih => exact ih _ (processLane_accepts cfg m l h)

/-- PROCESS keeps lengths, so what it gives of bodies that fit fits. -/
theorem processEach_relayable (ms : List (List Byte)) (l : LaneState) (h : ∀ m ∈ ms, Relayable cfg m) :
    ∀ c ∈ (processEach cfg ms l).1, Relayable cfg c := by
  induction ms generalizing l with
  | nil => exact h
  | cons m ms ih =>
    obtain ⟨hm, hms⟩ := List.forall_mem_cons.mp h
    refine List.forall_mem_cons.mpr ⟨?_, ih _ hms⟩
    rwa [Relayable, processLane_length]

end ProcessEach

section Paired

variable {l l' : LaneState} (h : paired l l')
include h

/-- A lane that is one end of a direction accepts PROCESS (R84, R86, R88). -/
theorem paired.accepts : l.accepts ∧ l'.accepts := by
  obtain ⟨hmode, hxor⟩ := h
  cases hm : l.mode with
  | identity => exact ⟨.inl hm, .inl (hmode ▸ hm)⟩
  | xor =>
    obtain ⟨hs, hs', _⟩ := hxor hm
    exact ⟨.inr hs, .inr hs'⟩

/-- One end undoes what the other did, and the two are paired again (R86, R87). -/
theorem processLane_paired (cfg : Cfg) (buf : List Byte) :
    (processLane cfg (processLane cfg buf l).1 l').1 = buf ∧
      paired (processLane cfg buf l).2 (processLane cfg (processLane cfg buf l).1 l').2 := by
  obtain ⟨hmode, hxor⟩ := id h
  cases hm : l.mode with
  | identity =>
    simp only [processLane_identity cfg buf l hm, processLane_identity cfg _ l' (hmode ▸ hm)]
    exact ⟨trivial, h⟩
  | xor =>
    obtain ⟨hs, hs', hsame⟩ := hxor hm
    obtain ⟨hcancel, hlast⟩ := xorBuffer_cancel (cfg := cfg) hsame buf
    simp only [processLane_xor cfg _ l hm, processLane_xor cfg _ l' (hmode ▸ hm)]
    exact ⟨hcancel, by simpa using hmode, fun _ => ⟨by simpa using hs, by simpa using hs', hlast⟩⟩

theorem processEach_paired (cfg : Cfg) (ms : List (List Byte)) :
    (processEach cfg (processEach cfg ms l).1 l').1 = ms ∧
      paired (processEach cfg ms l).2 (processEach cfg (processEach cfg ms l).1 l').2 := by
  induction ms generalizing l l' with
  | nil => exact ⟨rfl, h⟩
  | cons m ms ih =>
    obtain ⟨hout, hnext⟩ := processLane_paired h cfg m
    obtain ⟨houts, hlast⟩ := ih hnext
    exact ⟨congrArg₂ List.cons hout houts, hlast⟩

end Paired

/-! ## TX_DATA -/

/-- ENCODE of a body as Data (R101). -/
theorem cmdEncode_data (body : List Byte) {b : Block} (hr : b.run = .active) :
    cmdEncode 2#32 body b = (b, okResp 0#32 (le32 2 ++ body)) := by
  simp [cmdEncode, whenActive_active, hr, tagOperand, tagData]

theorem cmdMake_fits {payload : List Byte} {b : Block} (hr : b.run = .active) (hl : payload.length < 2 ^ 32) :
    cmdMake payload b = (b, okResp 0#32 (frameBytes payload)) := by
  rw [cmdMake, whenActive_active _ _ hr, if_neg (Nat.not_le.mpr hl), frameBytes]

/-- TX_DATA of a read that fits runs PROCESS, ENCODE and MAKE, all OK (R112). -/
theorem relayTx_sends (cfg : Cfg) {bytes : List Byte} {b : Block} (hr : b.run = .active) (ha : b.send.accepts)
    (hne : bytes ≠ []) (hl : bytes.length + 4 < 2 ^ 32) :
    relayTx cfg bytes b =
      ⟨{ b with send := (processLane cfg bytes b.send).2 },
        [processAnswer (processLane cfg bytes b.send).1,
          ⟨opEncode, okResp 0#32 (le32 2 ++ (processLane cfg bytes b.send).1)⟩,
          ⟨opMake, okResp 0#32 (dataOnWire (processLane cfg bytes b.send).1)⟩], true⟩ := by
  obtain ⟨x, xs, rfl⟩ := List.exists_cons_of_ne_nil hne
  have hprocess := cmdProcess_of_accepts cfg .send (x :: xs) b hr ha
  have hrun : (b.setLane .send (processLane cfg (x :: xs) b.send).2).run = .active := hr
  have hlen : (le32 2 ++ (processLane cfg (x :: xs) b.send).1).length < 2 ^ 32 := by
    rw [List.length_append, le32_length, processLane_length]
    omega
  simp only [relayTx, hprocess, Block.lane_send, okResp_out, Relay.andThen, issue, cmdEncode_data _ hrun,
    cmdMake_fits hrun hlen]
  rfl

theorem okOutputs_append (op : BitVec 8) (as as' : List Answer) :
    okOutputs op (as ++ as') = okOutputs op as ++ okOutputs op as' := by
  simp [okOutputs]

/-- Read after read, the frames that MAKE returns are the Data messages of what PROCESS returns (R112). -/
theorem txAll_sends (cfg : Cfg) (ms : List (List Byte)) {b : Block} (hr : b.run = .active) (ha : b.send.accepts)
    (hms : ∀ m ∈ ms, m ≠ [] ∧ m.length + 4 < 2 ^ 32) :
    (txAll cfg ms b).1 = { b with send := (processEach cfg ms b.send).2 } ∧
      okOutputs opMake (txAll cfg ms b).2 = (processEach cfg ms b.send).1.map dataOnWire := by
  induction ms generalizing b with
  | nil => exact ⟨rfl, rfl⟩
  | cons m ms ih =>
    obtain ⟨⟨hne, hl⟩, hms⟩ := List.forall_mem_cons.mp hms
    obtain ⟨hblock, houts⟩ := ih (b := { b with send := (processLane cfg m b.send).2 }) hr
      (processLane_accepts cfg m _ ha) hms
    rw [txAll, relayTx_sends cfg hr ha hne hl]
    exact ⟨hblock, (okOutputs_append ..).trans (congrArg (List.cons _) houts)⟩

end Sys2Proof.Machine

/-! SUPPORT. The receiving end (44_system_and_macros.md R114, R116 (a)): RX_DRAIN on a stream of Data messages, however
it is cut into reads. What a part of the script has done is that it delivered some of the messages, in order, and that
the buffer holds less than the next one (`Relay.Relays`). -/

namespace Sys2Proof.Machine

theorem outsOf_append (as as' : List Answer) : outsOf (as ++ as') = outsOf as ++ outsOf as' :=
  okOutputs_append opProcess as as'

/-- A part of RX_DRAIN that has put these bodies through lane RECV, delivered what came out and nothing else, changed
no more than that lane and the buffer, and goes on. -/
structure Relay.Delivers (cfg : Cfg) (bodies : List (List Byte)) (b : Block) (x : Relay) : Prop where
  goesOn : x.goesOn = true
  outs : outsOf x.answers = (processEach cfg bodies b.recv).1
  block : x.block = { b with recv := (processEach cfg bodies b.recv).2, fbuf := x.block.fbuf }

/-- The buffer and what is still to come on the wire are the frames of these bodies, and the buffer holds less than the
first of them. -/
structure Awaits (bodies : List (List Byte)) (fbuf more : List Byte) : Prop where
  stream : fbuf ++ more = (bodies.map dataOnWire).flatten
  short : ∀ body rest, bodies = body :: rest → fbuf.length < (dataOnWire body).length

/-- A part of RX_DRAIN that has delivered the first of these bodies and awaits the others. -/
def Relay.Relays (cfg : Cfg) (bodies : List (List Byte)) (more : List Byte) (b : Block) (x : Relay) : Prop :=
  ∃ done left, bodies = done ++ left ∧ Relay.Delivers cfg done b x ∧ Awaits left x.block.fbuf more

theorem readU32_append (l rest : List Byte) {n : Nat} (h : readU32 l = some n) : readU32 (l ++ rest) = some n := by
  obtain ⟨hn, hl, _⟩ := readU32_eq_some l n h
  rw [hl, List.append_assoc]
  exact readU32_le32_append n hn _

section Delivers

variable {cfg : Cfg} {bodies : List (List Byte)} {b : Block} {x : Relay}

theorem Relay.Delivers.run (h : Relay.Delivers cfg bodies b x) : x.block.run = b.run := by rw [h.block]

theorem Relay.Delivers.recv (h : Relay.Delivers cfg bodies b x) :
    x.block.recv = (processEach cfg bodies b.recv).2 := by rw [h.block]

/-- Answers that are none of PROCESS deliver nothing. -/
theorem Relay.Delivers.of_fbuf {as : List Answer} {fbuf : List Byte} (h : outsOf as = []) :
    Relay.Delivers cfg [] b ⟨{ b with fbuf := fbuf }, as, true⟩ := ⟨rfl, h, rfl⟩

theorem Relay.Delivers.accepts (h : Relay.Delivers cfg bodies b x) (ha : b.recv.accepts) : x.block.recv.accepts := by
  rw [h.recv]
  exact processEach_accepts cfg bodies _ ha

theorem relayMessage_delivers (cfg : Cfg) (body : List Byte) {b : Block} (hr : b.run = .active) (ha : b.recv.accepts) :
    Relay.Delivers cfg [body] b (relayMessage cfg (le32 2 ++ body) b) := by
  rw [relayMessage_data cfg body b hr ha]
  exact ⟨rfl, rfl, rfl⟩

/-- Delivered bodies, and then the rest of the script on the others. -/
theorem Relay.Delivers.andThen {f : Block → Relay} {done left : List (List Byte)} {more : List Byte}
    (h : Relay.Delivers cfg done b x) (hf : Relay.Relays cfg left more x.block (f x.block)) :
    Relay.Relays cfg (done ++ left) more b (x.andThen f) := by
  obtain ⟨done', left', rfl, hdone', hleft'⟩ := hf
  rw [Relay.andThen_go x f h.goesOn]
  refine ⟨done ++ done', left', (List.append_assoc ..).symm, ⟨hdone'.goesOn, ?_, ?_⟩, hleft'⟩
  · rw [outsOf_append, h.outs, hdone'.outs, h.recv, processEach_append]
  · have hblock := hdone'.block
    rw [h.recv] at hblock
    rw [processEach_append]
    refine hblock.trans ?_
    rw [h.block]

end Delivers

section Drain

variable {cfg : Cfg} {bodies : List (List Byte)} {fbuf more : List Byte} {b : Block}

/-- When no byte is to come, nothing is awaited and the buffer is empty. -/
theorem Awaits.eq_nil (h : Awaits bodies fbuf []) : bodies = [] ∧ fbuf = [] := by
  obtain ⟨hstream, hshort⟩ := h
  rw [List.append_nil] at hstream
  cases bodies with
  | nil => exact ⟨rfl, hstream⟩
  | cons body rest =>
    have hlt := hshort body rest rfl
    rw [hstream, List.map_cons, List.flatten_cons, List.length_append] at hlt
    omega

/-- A length that stands in the buffer is that of the first frame awaited. -/
theorem Awaits.announced (h : Awaits bodies fbuf more) {len : Nat} (hfit : ∀ m ∈ bodies, Relayable cfg m)
    (hread : readU32 fbuf = some len) : capAdmits cfg (4 + len) = true ∧ fbuf.length < 4 + len := by
  obtain ⟨hstream, hshort⟩ := h
  cases bodies with
  | nil =>
    obtain ⟨rfl, _⟩ : fbuf = [] ∧ more = [] := by simpa using hstream
    cases hread
  | cons body rest =>
    obtain ⟨hl, hc⟩ := hfit body List.mem_cons_self
    have hhead := readU32_append fbuf more hread
    rw [hstream, List.map_cons, List.flatten_cons, dataOnWire, frameBytes, List.append_assoc,
      readU32_le32_append _ (by rw [List.length_append, le32_length]; omega)] at hhead
    obtain rfl := Option.some.inj hhead
    have hlt := hshort body rest rfl
    rw [dataOnWire_length] at hlt
    rw [List.length_append, le32_length, ← Nat.add_assoc]
    exact ⟨hc, hlt⟩

/-- Less than one frame that fits: EXTRACT_ONE answers NOTHING (R94). -/
theorem Awaits.extract_nothing (h : Awaits bodies b.fbuf more) (hfit : ∀ m ∈ bodies, Relayable cfg m)
    (hr : b.run = .active) : cmdExtractOne cfg b = (b, nothingResp) := by
  rcases cmdExtractOne_cases cfg b with
    ⟨hclosed, _⟩ | ⟨_, _, e⟩ | ⟨len, _, hread, hc, _⟩ | ⟨_, _, _, _, _, e⟩ | ⟨len, _, hread, _, hle, _⟩
  · rw [hr] at hclosed
    cases hclosed
  · exact e
  · rw [(h.announced hfit hread).1] at hc
    cases hc
  · exact e
  · exact absurd (h.announced hfit hread).2 (Nat.not_lt.mpr hle)

/-- While more is to come than the buffer admits, the buffer is not full (R93). -/
theorem Awaits.length_lt_cap {cap : Nat} (h : Awaits bodies fbuf more) (hfit : ∀ m ∈ bodies, Relayable cfg m)
    (hcap : cfg.framerCap = some cap) (hfull : cap < fbuf.length + more.length) : fbuf.length < cap := by
  obtain ⟨hstream, hshort⟩ := h
  cases bodies with
  | nil =>
    obtain ⟨rfl, rfl⟩ : fbuf = [] ∧ more = [] := by simpa using hstream
    exact absurd hfull (Nat.not_lt_zero cap)
  | cons body rest =>
    obtain ⟨_, hc⟩ := hfit body List.mem_cons_self
    have hlt := hshort body rest rfl
    rw [dataOnWire_length] at hlt
    exact hlt.trans_le ((capAdmits_eq_true_iff _ _).mp hc cap hcap)

/-- The drain loop ends at a frame that is not whole. -/
theorem Awaits.relayDrain_relays (fuel : Nat) (h : Awaits bodies b.fbuf more) (hfit : ∀ m ∈ bodies, Relayable cfg m)
    (hr : b.run = .active) : Relay.Relays cfg bodies more b (relayDrain cfg (fuel + 1) b) := by
  rw [relayDrain_nothing cfg fuel b (h.extract_nothing hfit hr)]
  exact ⟨[], bodies, rfl, .of_fbuf rfl, h⟩

/-- The drain loop delivers the whole frames that are buffered and awaits the others. -/
theorem relayDrain_relays (fuel : Nat) (hfit : ∀ m ∈ bodies, Relayable cfg m) (hr : b.run = .active)
    (ha : b.recv.accepts) (hstream : b.fbuf ++ more = (bodies.map dataOnWire).flatten) (hfuel : b.fbuf.length < fuel) :
    Relay.Relays cfg bodies more b (relayDrain cfg fuel b) := by
  induction bodies generalizing b fuel with
  | nil =>
    obtain ⟨fuel, rfl⟩ := Nat.exists_eq_succ_of_ne_zero (Nat.ne_zero_of_lt hfuel)
    exact Awaits.relayDrain_relays fuel ⟨hstream, by simp⟩ hfit hr
  | cons body bodies ih =>
    obtain ⟨fuel, rfl⟩ := Nat.exists_eq_succ_of_ne_zero (Nat.ne_zero_of_lt hfuel)
    obtain ⟨hbody, hbodies⟩ := List.forall_mem_cons.mp hfit
    by_cases hshort : b.fbuf.length < (dataOnWire body).length
    · exact Awaits.relayDrain_relays fuel ⟨hstream, by rintro _ _ ⟨⟩; exact hshort⟩ hfit hr
    · rw [List.map_cons, List.flatten_cons] at hstream
      obtain ⟨kept, hkept⟩ : dataOnWire body <+: b.fbuf :=
        (List.isPrefix_append_of_length (Nat.le_of_not_lt hshort)).mp ⟨_, hstream.symm⟩
      rw [← hkept, List.append_assoc] at hstream
      have hrest := List.append_cancel_left hstream
      have hlen := congrArg List.length hkept
      rw [List.length_append, dataOnWire_length] at hlen
      have hkeptLen : kept.length < fuel := by omega
      have hmessage := relayMessage_delivers cfg body (b := { b with fbuf := kept }) hr ha
      rw [relayDrain_dataOnWire cfg fuel hr hbody hkept.symm]
      exact (Relay.Delivers.of_fbuf rfl).andThen <| hmessage.andThen <|
        ih fuel hbodies (hmessage.run.trans hr) (hmessage.accepts ha)
          (by rwa [relayMessage_fbuf]) (by rwa [relayMessage_fbuf])

/-- The feeding loop hands all its bytes on, whatever the capacity (R93, R114; log 9). -/
theorem relayFeed_relays (fuel : Nat) {bytes : List Byte} (hfit : ∀ m ∈ bodies, Relayable cfg m) (hr : b.run = .active)
    (ha : b.recv.accepts) (hwait : Awaits bodies b.fbuf (bytes ++ more)) (hfuel : bytes.length < fuel) :
    Relay.Relays cfg bodies more b (relayFeed cfg fuel bytes b) := by
  induction fuel generalizing b bytes bodies with
  | zero => exact absurd hfuel (Nat.not_lt_zero _)
  | succ fuel ih =>
    cases hc : capAdmits cfg (b.fbuf.length + bytes.length) with
    | true =>
      rw [relayFeed_fits cfg fuel bytes b hr hc]
      exact (Relay.Delivers.of_fbuf rfl).andThen <|
        relayDrain_relays _ hfit hr ha ((List.append_assoc ..).trans hwait.stream) (Nat.lt_succ_self _)
    | false =>
      obtain ⟨cap, hcap, hfull⟩ := (capAdmits_eq_false_iff _ _).mp hc
      have hroom := hwait.length_lt_cap hfit hcap (by rw [List.length_append]; omega)
      rw [relayFeed_full cfg fuel bytes b hcap hr hroom.le hfull]
      have hstream := hwait.stream
      rw [← List.take_append_drop (cap - b.fbuf.length) bytes, List.append_assoc, ← List.append_assoc] at hstream
      obtain ⟨done, left, rfl, hdone, hleft⟩ := relayDrain_relays _ hfit
        (b := { b with fbuf := b.fbuf ++ bytes.take (cap - b.fbuf.length) }) hr ha hstream (Nat.lt_succ_self _)
      exact (Relay.Delivers.of_fbuf rfl).andThen <| hdone.andThen <|
        ih (fun m hm => hfit m (List.mem_append_right _ hm)) (hdone.run.trans hr) (hdone.accepts ha) hleft
          (by rw [List.length_drop]; omega)

/-- Read after read, RX_DRAIN delivers what has come whole. -/
theorem rxAll_relays (cuts : List (List Byte)) (hfit : ∀ m ∈ bodies, Relayable cfg m) (hr : b.run = .active)
    (ha : b.recv.accepts) (hwait : Awaits bodies b.fbuf (cuts.flatten ++ more)) :
    Relay.Relays cfg bodies more b ⟨(rxAll cfg cuts b).1, (rxAll cfg cuts b).2, true⟩ := by
  induction cuts generalizing b bodies with
  | nil => exact ⟨[], bodies, rfl, .of_fbuf rfl, hwait⟩
  | cons cut cuts ih =>
    rw [List.flatten_cons, List.append_assoc] at hwait
    obtain ⟨done, left, rfl, hdone, hleft⟩ := relayFeed_relays (cut.length + 2) hfit hr ha hwait (by omega)
    have hrest := hdone.andThen (f := fun b => ⟨(rxAll cfg cuts b).1, (rxAll cfg cuts b).2, true⟩) <|
      ih (fun m hm => hfit m (List.mem_append_right _ hm)) (hdone.run.trans hr) (hdone.accepts ha) hleft
    rwa [Relay.andThen_go _ _ hdone.goesOn] at hrest

end Drain

end Sys2Proof.Machine

/-! The statement about the two ends of a tunnel (44_system_and_macros.md R118). -/

namespace Sys2Proof.Machine

/-- Settles O60: the wire carries the Data messages of what PROCESS made of the reads (`txAll_sends`), the other end
delivers them all (`rxAll_relays`), and lane RECV undoes what lane SEND did (`processEach_paired`). -/
theorem tunnelRelaysEveryMessage : Obligations.TunnelRelaysEveryMessage := by
  intro cfg a b ms cuts _ hra hrb hb hpair hms hcuts
  obtain ⟨hsend, hrecv⟩ := hpair.accepts
  obtain ⟨hablock, hwire⟩ := txAll_sends cfg ms hra hsend fun m hm => ⟨(hms m hm).1, (hms m hm).2.1⟩
  have hfit := processEach_relayable cfg ms a.send fun m hm => (hms m hm).2
  have hwait : Awaits (processEach cfg ms a.send).1 b.fbuf (cuts.flatten ++ []) := by
    rw [List.append_nil, hb]
    refine ⟨hcuts.trans (congrArg List.flatten hwire), fun body _ _ => by simp⟩
  obtain ⟨done, left, hbodies, hdone, hleft⟩ := rxAll_relays cuts hfit hrb hrecv hwait
  obtain ⟨rfl, hfbuf⟩ := hleft.eq_nil
  rw [List.append_nil] at hbodies
  subst hbodies
  obtain ⟨hunchanged, hpaired⟩ := processEach_paired hpair cfg ms
  refine ⟨hdone.outs.trans hunchanged, hdone.run.trans hrb, hfbuf, ?_⟩
  have hlane : (rxAll cfg cuts b).1.lane .recv = _ := hdone.recv
  rw [hablock, hlane]
  exact hpaired

end Sys2Proof.Machine

/-! SUPPORT. The framer's three commands on an ACTIVE block (42_framer.md), one lemma for each outcome not yet said, and
each as an instruction. -/

namespace Sys2Proof.Machine

section Framer

variable {cfg : Cfg} {b : Block} (hr : b.run = .active)
include hr

/-- A length that announces a frame over the capacity faults (R96). -/
theorem cmdExtractOne_oversize {len : Nat} (hread : readU32 b.fbuf = some len) (hc : capAdmits cfg (4 + len) = false) :
    cmdExtractOne cfg b = raiseFault .framingFault len b := by
  simp [cmdExtractOne, whenActive_active, hr, hread, hc]

/-- Without a whole frame, or a length over the capacity, EXTRACT_ONE answers NOTHING and takes no byte (R94). -/
theorem cmdExtractOne_nothing
    (h : ∀ len, readU32 b.fbuf = some len → capAdmits cfg (4 + len) = true ∧ b.fbuf.length < 4 + len) :
    cmdExtractOne cfg b = (b, nothingResp) := by
  cases hread : readU32 b.fbuf with
  | none => simp [cmdExtractOne, whenActive_active, hr, hread]
  | some len =>
    obtain ⟨hc, hlt⟩ := h len hread
    simp [cmdExtractOne, whenActive_active, hr, hread, hc, hlt]

/-- Too few bytes to hold a length: NOTHING (R94). -/
theorem cmdExtractOne_short (hlt : b.fbuf.length < 4) : cmdExtractOne cfg b = (b, nothingResp) :=
  cmdExtractOne_nothing hr fun len hread => by
    obtain ⟨_, _, hle⟩ := readU32_eq_some _ len hread
    omega

/-- A proper beginning of a frame that fits: NOTHING (R94). -/
theorem cmdExtractOne_partial {payload more : List Byte} (hl : payload.length < 2 ^ 32)
    (hc : capAdmits cfg (4 + payload.length) = true) (hb : b.fbuf ++ more = frameBytes payload)
    (hlt : b.fbuf.length < (frameBytes payload).length) : cmdExtractOne cfg b = (b, nothingResp) :=
  cmdExtractOne_nothing hr fun len hread => by
    have hhead := readU32_append _ more hread
    rw [hb, frameBytes, readU32_le32_append _ hl] at hhead
    obtain rfl := Option.some.inj hhead
    rw [frameBytes, List.length_append, le32_length] at hlt
    exact ⟨hc, hlt⟩

/-- MAKE of a payload whose length four bytes cannot hold (R98). -/
theorem cmdMake_tooLong {payload : List Byte} (hl : 2 ^ 32 ≤ payload.length) :
    cmdMake payload b = refuse .tooLong b := by
  rw [cmdMake, whenActive_active _ _ hr, if_pos hl]

end Framer

section Exec

variable {s : State} {r : Block × Resp}

theorem exec_push_of {bytes : List Byte} (h : cmdPush Config.config bytes s.block = r) :
    exec (.push bytes) s = .next (s.commit opPush r) := by rw [← h]; rfl

theorem exec_extractOne_of (h : cmdExtractOne Config.config s.block = r) :
    exec .extractOne s = .next (s.commit opExtractOne r) := by rw [← h]; rfl

theorem exec_make_of {payload : List Byte} (h : cmdMake payload s.block = r) :
    exec (.make payload) s = .next (s.commit opMake r) := by rw [← h]; rfl

/-- A piece of the stream that fits is pushed, and EXTRACT_ONE then answers for what is buffered (R91, R94). -/
theorem runAll_push_extractOne (hr : s.block.run = .active) {x : List Byte}
    (hc : capAdmits Config.config (s.block.fbuf.length + x.length) = true)
    (h : cmdExtractOne Config.config { s.block with fbuf := s.block.fbuf ++ x } = r) :
    runAll [.push x, .extractOne] s = some (s.commit opExtractOne r, [⟨opPush, okResp 0#32 []⟩, ⟨opExtractOne, r.2⟩]) :=
  runAll_cons _ _ _ _ _ _ (exec_push_of (cmdPush_fits _ x s.block hr hc))
    (runAll_cons _ _ _ _ _ _ (exec_extractOne_of h) (runAll_nil _))

end Exec

end Sys2Proof.Machine

/-! The statements about the framer (42_framer.md). -/

namespace Sys2Proof.Machine

/-- Settles O38, by the run state and by whether the bytes fit. -/
theorem pushAppendsOrIsRefusedWhole : Obligations.PushAppendsOrIsRefusedWhole := by
  intro s bytes
  refine ⟨fun hr => ?_, fun hr hfits => ?_, fun hr hfull => ?_⟩
  · exact exec_push_of (whenActive_closed _ _ hr)
  · exact exec_push_of (cmdPush_fits _ _ _ hr ((capAdmits_eq_true_iff _ _).mpr hfits))
  · exact exec_push_of (cmdPush_full _ _ _ hr ((capAdmits_eq_false_iff _ _).mpr hfull))

/-- Settles O42, by the run state and by whether four bytes can hold the length. -/
theorem makeFramesThePayload : Obligations.MakeFramesThePayload := by
  intro s payload
  refine ⟨fun hr => ?_, fun hr hl => ?_, fun hr hl => ?_⟩
  · exact exec_make_of (whenActive_closed _ _ hr)
  · exact exec_make_of (cmdMake_fits hr hl)
  · exact exec_make_of (cmdMake_tooLong hr hl)

/-- Settles O40: the length is read from its four bytes, whatever follows them. -/
theorem oversizeLengthIsAFramingFault : Obligations.OversizeLengthIsAFramingFault := by
  intro cfg cap len rest b hcap hr hl hover hb
  have hread : readU32 b.fbuf = some len := hb ▸ readU32_le32_append len hl rest
  exact cmdExtractOne_oversize hr hread ((capAdmits_eq_false_iff _ _).mpr ⟨cap, hcap, hover⟩)

/-- Settles O39, by what the buffer holds: no length, a length over the capacity, part of a frame, or a whole one. -/
theorem extractOneTakesOneWholeFrame : Obligations.ExtractOneTakesOneWholeFrame := by
  intro s
  refine ⟨fun hr => ?_, fun hr hlt => ?_, fun len rest hr hl hb => ?_⟩
  · exact exec_extractOne_of (whenActive_closed _ _ hr)
  · exact exec_extractOne_of (cmdExtractOne_short hr hlt)
  · have hread : readU32 s.block.fbuf = some len := hb ▸ readU32_le32_append len hl rest
    refine ⟨fun hover => ?_, fun hfits hlt => ?_, fun hfits hle => ?_⟩
    · exact exec_extractOne_of (cmdExtractOne_oversize hr hread ((capAdmits_eq_false_iff _ _).mpr hover))
    · refine exec_extractOne_of (cmdExtractOne_nothing hr fun len' hread' => ?_)
      obtain rfl := Option.some.inj (hread.symm.trans hread')
      have hlen : s.block.fbuf.length = 4 + rest.length := by rw [hb, List.length_append, le32_length]
      exact ⟨(capAdmits_eq_true_iff _ _).mpr hfits, by omega⟩
    · have hlen : (rest.take len).length = len := List.length_take_of_le hle
      have hframe : s.block.fbuf = frameBytes (rest.take len) ++ rest.drop len := by
        rw [hb, frameBytes, hlen, List.append_assoc, List.take_append_drop]
      have hextract := cmdExtractOne_frame Config.config _ _ s.block hr (by rwa [hlen])
        (by rw [hlen]; exact (capAdmits_eq_true_iff _ _).mpr hfits) hframe
      rw [hlen] at hextract
      exact exec_extractOne_of hextract

/-- Settles O41: NOTHING comes of fewer than four bytes, where the least capacity is five (R14), or of a frame that fits
the capacity and is not whole. -/
theorem drainedBufferHasRoom : Obligations.DrainedBufferHasRoom := by
  intro cfg cap b hv hcap hstatus
  rcases cmdExtractOne_cases cfg b with
    ⟨_, e⟩ | ⟨_, hread, e⟩ | ⟨_, _, _, _, e⟩ | ⟨len, _, _, hc, hlt, e⟩ | ⟨_, _, _, _, _, e⟩ <;> rw [e] at hstatus ⊢
  · exact absurd hstatus statusRefused_ne_nothing
  · have hlt := (readU32_eq_none_iff _).mp hread
    have hmin := hv.cap_ge cap hcap
    exact ⟨rfl, by omega⟩
  · exact absurd hstatus statusFault_ne_nothing
  · exact ⟨rfl, hlt.trans_le ((capAdmits_eq_true_iff _ _).mp hc cap hcap)⟩
  · exact absurd hstatus statusOk_ne_nothing

/-- Settles O43: PUSH of the frame into the empty buffer, and EXTRACT_ONE of it. -/
theorem framingRoundTrip : Obligations.FramingRoundTrip := by
  intro s payload hr hb hl hcap
  have hc := (capAdmits_eq_true_iff Config.config _).mpr hcap
  have hextract := cmdExtractOne_frame Config.config payload []
    { s.block with fbuf := s.block.fbuf ++ frameBytes payload } hr hl hc (by rw [hb, List.append_nil]; rfl)
  rw [← hb] at hextract
  refine runAll_cons _ _ _ _ _ _ (exec_make_of (cmdMake_fits hr hl)) ?_
  exact runAll_push_extractOne hr (by simpa [hb, frameBytes] using hc) hextract

end Sys2Proof.Machine

/-! SUPPORT. A stream of frames through PUSH and EXTRACT_ONE (42_framer.md R99): one frame in pieces, and several frames
at once. -/

namespace Sys2Proof.Machine

section Stream

variable {s : State} (hr : s.block.run = .active)
include hr

/-- Pieces of nothing, into an empty buffer: NOTHING each time. -/
theorem runAll_empty_pieces (hb : s.block.fbuf = []) (pieces : List (List Byte)) (hp : pieces.flatten = []) :
    ∃ t as, runAll (pieces.flatMap fun x => [.push x, .extractOne]) s = some (t, as) ∧ t.block = s.block ∧
      okOutputs opExtractOne as = [] := by
  induction pieces generalizing s with
  | nil => exact ⟨s, [], rfl, rfl, rfl⟩
  | cons x pieces ih =>
    rw [List.flatten_cons] at hp
    obtain ⟨rfl, hp⟩ := List.append_eq_nil_iff.mp hp
    have hextract : cmdExtractOne Config.config { s.block with fbuf := s.block.fbuf ++ [] } =
        (s.block, nothingResp) := by
      rw [List.append_nil]
      exact cmdExtractOne_short hr (by simp [hb])
    have hc : capAdmits Config.config (s.block.fbuf.length + 0) = true :=
      (capAdmits_eq_true_iff _ _).mpr fun cap _ => by simp [hb]
    obtain ⟨t, as, hrun, hblock, houts⟩ := ih (s := s.commit opExtractOne (s.block, nothingResp)) hr hb hp
    exact ⟨t, _, runAll_append _ _ _ _ _ _ _ (runAll_push_extractOne hr hc hextract) hrun, hblock,
      (okOutputs_append ..).trans houts⟩

/-- The rest of a frame in pieces: its payload comes out once, with the piece that completes it. -/
theorem runAll_frame_pieces {payload : List Byte} (hl : payload.length < 2 ^ 32)
    (hc : capAdmits Config.config (4 + payload.length) = true) (pieces : List (List Byte))
    (hp : s.block.fbuf ++ pieces.flatten = frameBytes payload)
    (hlt : s.block.fbuf.length < (frameBytes payload).length) :
    ∃ t as, runAll (pieces.flatMap fun x => [.push x, .extractOne]) s = some (t, as) ∧
      t.block = { s.block with fbuf := [] } ∧ okOutputs opExtractOne as = [payload] := by
  induction pieces generalizing s with
  | nil =>
    rw [List.flatten_nil, List.append_nil] at hp
    rw [hp] at hlt
    exact absurd hlt (Nat.lt_irrefl _)
  | cons x pieces ih =>
    rw [List.flatten_cons, ← List.append_assoc] at hp
    have hframe : (frameBytes payload).length = 4 + payload.length := by simp [frameBytes]
    have hlen := congrArg List.length hp
    rw [List.length_append, List.length_append, hframe] at hlen
    have hpush : capAdmits Config.config (s.block.fbuf.length + x.length) = true := capAdmits_mono _ _ _ (by omega) hc
    by_cases hshort : (s.block.fbuf ++ x).length < (frameBytes payload).length
    · have hextract := cmdExtractOne_partial (b := { s.block with fbuf := s.block.fbuf ++ x }) hr hl hc hp hshort
      obtain ⟨t, as, hrun, hblock, houts⟩ :=
        ih (s := s.commit opExtractOne ({ s.block with fbuf := s.block.fbuf ++ x }, nothingResp)) hr hp hshort
      exact ⟨t, _, runAll_append _ _ _ _ _ _ _ (runAll_push_extractOne hr hpush hextract) hrun, hblock,
        (okOutputs_append ..).trans houts⟩
    · have hrest : pieces.flatten = [] := by
        rw [List.length_append] at hshort
        exact List.eq_nil_of_length_eq_zero (by omega)
      rw [hrest, List.append_nil] at hp
      have hextract := cmdExtractOne_frame Config.config payload [] { s.block with fbuf := s.block.fbuf ++ x } hr hl hc
        (by rw [List.append_nil]; exact hp)
      obtain ⟨t, as, hrun, hblock, houts⟩ := runAll_empty_pieces
        (s := s.commit opExtractOne
          ({ s.block with fbuf := [] }, okResp (BitVec.ofNat 32 payload.length) payload)) hr rfl pieces hrest
      exact ⟨t, _, runAll_append _ _ _ _ _ _ _ (runAll_push_extractOne hr hpush hextract) hrun, hblock,
        (okOutputs_append ..).trans (congrArg (List.cons payload) houts)⟩

end Stream

end Sys2Proof.Machine

/-! The statements about a stream of frames (42_framer.md R99). -/

namespace Sys2Proof.Machine

/-- Settles O44: an empty buffer holds less than a frame, and then `runAll_frame_pieces`. -/
theorem splitFrameIsReassembledOnce : Obligations.SplitFrameIsReassembledOnce := by
  intro s payload pieces hr hb hl hcap hp
  obtain ⟨t, as, hrun, hblock, houts⟩ := runAll_frame_pieces hr hl ((capAdmits_eq_true_iff _ _).mpr hcap) pieces
    (by rw [hb]; exact hp) (by simp [hb, frameBytes])
  rw [← hb] at hblock
  exact ⟨t, as, hrun, hblock, houts⟩

/-- Settles O45, by induction on the frames that are buffered. -/
theorem concatenatedFramesComeOutInOrder : Obligations.ConcatenatedFramesComeOutInOrder := by
  intro s payloads hr hb hfit
  induction payloads generalizing s with
  | nil =>
    have hextract := cmdExtractOne_short (cfg := Config.config) hr (by simp [hb])
    have hempty : s.block.fbuf = [] := hb
    exact ⟨_, runAll_cons _ _ _ _ _ _ (exec_extractOne_of hextract) (runAll_nil _), by rw [← hempty]; rfl⟩
  | cons payload payloads ih =>
    obtain ⟨⟨hl, hcap⟩, hrest⟩ := List.forall_mem_cons.mp hfit
    have hextract := cmdExtractOne_frame Config.config payload _ s.block hr hl ((capAdmits_eq_true_iff _ _).mpr hcap) hb
    obtain ⟨t, hrun, hblock⟩ := ih (s.commit opExtractOne ({ s.block with fbuf := (payloads.map frameBytes).flatten },
      okResp (BitVec.ofNat 32 payload.length) payload)) hr rfl hrest
    exact ⟨t, runAll_cons _ _ _ _ _ _ (exec_extractOne_of hextract) hrun, hblock⟩

end Sys2Proof.Machine

/-! SUPPORT. Where RX_DRAIN and TX_DATA end after commands that answered OK (44_system_and_macros.md R112 to R117): at a
message that cannot be relayed, at a length over the capacity, and at a payload too long for a frame. -/

namespace Sys2Proof.Machine

section Stops

variable (cfg : Cfg) {b b' : Block} {payload : List Byte}

/-- TX_DATA of too long a read: PROCESS and ENCODE answer OK, and MAKE refuses (R98, R112). -/
theorem relayTx_tooLong {bytes : List Byte} (hr : b.run = .active) (ha : b.send.accepts)
    (hl : 2 ^ 32 ≤ bytes.length + 4) :
    relayTx cfg bytes b =
      ⟨{ b with send := (processLane cfg bytes b.send).2 },
        [processAnswer (processLane cfg bytes b.send).1,
          ⟨opEncode, okResp 0#32 (le32 2 ++ (processLane cfg bytes b.send).1)⟩,
          ⟨opMake, refusedResp .tooLong⟩], false⟩ := by
  have hne : bytes ≠ [] := by rintro rfl; simp at hl
  obtain ⟨x, xs, rfl⟩ := List.exists_cons_of_ne_nil hne
  have hprocess := cmdProcess_of_accepts cfg .send (x :: xs) b hr ha
  have hrun : (b.setLane .send (processLane cfg (x :: xs) b.send).2).run = .active := hr
  have hlen : 2 ^ 32 ≤ (le32 2 ++ (processLane cfg (x :: xs) b.send).1).length := by
    rw [List.length_append, le32_length, processLane_length]
    omega
  simp only [relayTx, hprocess, Block.lane_send, okResp_out, Relay.andThen, issue, cmdEncode_data _ hrun,
    cmdMake_tooLong hrun hlen]
  rfl

/-- A message that DECODE faults on ends the script (R104, R105). -/
theorem relayMessage_fault {k : Cause} {v : Nat} (h : cmdDecode payload b = raiseFault k v b) :
    relayMessage cfg payload b = ⟨b.closeWith k (BitVec.ofNat 32 v), [⟨opDecode, faultResp k⟩], false⟩ := by
  rw [relayMessage, h]
  exact Relay.andThen_stop _ _ rfl

/-- A payload too short for a tag (R105). -/
theorem cmdDecode_short (hr : b.run = .active) (hlt : payload.length < 4) :
    cmdDecode payload b = raiseFault .framingFault payload.length b := by
  simp [cmdDecode, whenActive_active, hr, (readU32_eq_none_iff payload).mpr hlt]

/-- A tag other than the two (R104). -/
theorem cmdDecode_unknown (hr : b.run = .active) {tag : Word32} (h1 : tag ≠ 1#32) (h2 : tag ≠ 2#32) (body : List Byte) :
    cmdDecode (le32 tag.toNat ++ body) b = raiseFault .unknownMessageType tag.toNat b := by
  have hn1 : tag.toNat ≠ 1 := fun h => h1 (BitVec.eq_of_toNat_eq h)
  have hn2 : tag.toNat ≠ 2 := fun h => h2 (BitVec.eq_of_toNat_eq h)
  simp [cmdDecode, whenActive_active, hr, readU32_le32_append _ tag.isLt, tagReseed, tagData, hn1, hn2]

/-- A Reseed is decoded and answered with CLOSE UNIMPLEMENTED_RESEED, which ends the script (R117). -/
theorem relayMessage_reseed (hr : b.run = .active) (body : List Byte) :
    relayMessage cfg (le32 1 ++ body) b =
      ⟨b.closeWith .unimplementedReseed 0#32, [⟨opDecode, okResp 1#32 body⟩, ⟨opClose, okResp 0#32 []⟩], false⟩ := by
  have hdecode : cmdDecode (le32 1 ++ body) b = (b, okResp 1#32 body) := by
    simp [cmdDecode, whenActive_active, hr, readU32_le32_append, tagReseed]
  have hclose : cmdClose 3#32 b = (b.closeWith .unimplementedReseed 0#32, okResp 0#32 []) := by
    rw [cmdClose, whenActive_active _ _ hr]
    rfl
  have hne : (1#32 : Word32) ≠ 2#32 := by decide
  rw [relayMessage, hdecode, Relay.andThen_go _ _ rfl]
  simp only [okResp_info, issue_block, issue_answers, if_neg hne, hclose]
  rfl

/-- The drain loop ends at a message that ends the script; its frame is gone. -/
theorem relayDrain_message_stops (fuel : Nat) {more : List Byte} {as : List Answer} (hr : b.run = .active)
    (hl : payload.length < 2 ^ 32) (hc : capAdmits cfg (4 + payload.length) = true)
    (hb : b.fbuf = frameBytes payload ++ more)
    (hmessage : relayMessage cfg payload { b with fbuf := more } = ⟨b', as, false⟩) :
    relayDrain cfg (fuel + 1) b =
      ⟨b', ⟨opExtractOne, okResp (BitVec.ofNat 32 payload.length) payload⟩ :: as, false⟩ := by
  rw [relayDrain_frame cfg fuel payload more b hr hl hc hb, Relay.mk_andThen, hmessage]
  rfl

/-- The drain loop ends where EXTRACT_ONE faults, on the buffer as it is (R96). -/
theorem relayDrain_fault (fuel : Nat) {k : Cause} {v : Nat} (h : cmdExtractOne cfg b = raiseFault k v b) :
    relayDrain cfg (fuel + 1) b = ⟨b.closeWith k (BitVec.ofNat 32 v), [⟨opExtractOne, faultResp k⟩], false⟩ := by
  simp only [relayDrain, h, raiseFault_snd, faultResp_status, if_neg statusFault_ne_nothing]
  exact Relay.andThen_stop _ _ rfl

/-- RX_DRAIN of more than a finite buffer holds, with a length over the capacity at the head: the buffer is filled, and
EXTRACT_ONE faults (R93, R96; log 9). -/
theorem relayRx_oversize {cap len : Nat} {rest : List Byte} (hcap : cfg.framerCap = some cap) (hmin : 4 ≤ cap)
    (hr : b.run = .active) (hb : b.fbuf = []) (hl : len < 2 ^ 32) (hover : cap < 4 + len)
    (hfull : cap < (le32 len ++ rest).length) :
    relayRx cfg (le32 len ++ rest) b =
      ⟨{ b with fbuf := (le32 len ++ rest).take cap }.closeWith .framingFault (BitVec.ofNat 32 len),
        [⟨opPush, refusedResp .framerFull⟩, ⟨opPush, okResp 0#32 []⟩, ⟨opExtractOne, faultResp .framingFault⟩],
        false⟩ := by
  have hread : readU32 ((le32 len ++ rest).take cap) = some len := by
    rw [List.take_append, List.take_of_length_le (by simpa using hmin)]
    exact readU32_le32_append len hl _
  have hextract := cmdExtractOne_oversize (b := { b with fbuf := (le32 len ++ rest).take cap }) hr hread
    ((capAdmits_eq_false_iff _ _).mpr ⟨cap, hcap, hover⟩)
  have hdrain := relayDrain_fault cfg ((le32 len ++ rest).take cap).length hextract
  rw [relayRx, relayFeed_full cfg _ _ b hcap hr (by simp [hb]) (by simpa [hb] using hfull), hb, List.nil_append,
    List.length_nil, Nat.sub_zero, Relay.mk_andThen, drainAll, hdrain, Relay.andThen_stop _ _ rfl]
  rfl

end Stops

/-! ## Data messages and what follows them -/

section Messages

variable {cfg : Cfg} {bodies : List (List Byte)} {tail : List Byte} {b : Block}

/-- The answers of EXTRACT_ONE, DECODE and PROCESS to one Data message that lane RECV takes (R114, R115). -/
def dataAnswers (cfg : Cfg) (body : List Byte) (l : LaneState) : List Answer :=
  [⟨opExtractOne, okResp (BitVec.ofNat 32 (4 + body.length)) (le32 2 ++ body)⟩, ⟨opDecode, okResp 2#32 body⟩,
    processAnswer (processLane cfg body l).1]

/-- The drain loop on a Data message's frame: it is relayed, and the loop goes on behind it (R114, R115). -/
theorem relayDrain_data (fuel : Nat) {body more : List Byte} (hr : b.run = .active) (ha : b.recv.accepts)
    (hfit : Relayable cfg body) (hb : b.fbuf = dataOnWire body ++ more) :
    relayDrain cfg (fuel + 1) b =
      (Relay.mk { b with recv := (processLane cfg body b.recv).2, fbuf := more }
        (dataAnswers cfg body b.recv) true).andThen (relayDrain cfg fuel) := by
  have hmessage := relayMessage_data cfg body { b with fbuf := more } hr ha
  rw [relayDrain_dataOnWire cfg fuel hr hfit hb, Relay.mk_andThen, hmessage]
  rfl

/-- The drain loop delivers all the Data messages at the head of the buffer and comes to what follows them (R114,
R116 (a)). -/
theorem relayDrain_messages (fuel : Nat) (hr : b.run = .active) (ha : b.recv.accepts)
    (hfit : ∀ m ∈ bodies, Relayable cfg m) (hb : b.fbuf = (bodies.map dataOnWire).flatten ++ tail)
    (hfuel : b.fbuf.length < fuel) :
    ∃ fuel' as, outsOf as = (processEach cfg bodies b.recv).1 ∧
      relayDrain cfg fuel b =
        (Relay.mk { b with recv := (processEach cfg bodies b.recv).2, fbuf := tail } as true).andThen
          (relayDrain cfg (fuel' + 1)) := by
  induction bodies generalizing b fuel with
  | nil =>
    obtain rfl : b.fbuf = tail := hb
    obtain ⟨fuel, rfl⟩ := Nat.exists_eq_succ_of_ne_zero (Nat.ne_zero_of_lt hfuel)
    exact ⟨fuel, [], rfl, rfl⟩
  | cons body bodies ih =>
    obtain ⟨fuel, rfl⟩ := Nat.exists_eq_succ_of_ne_zero (Nat.ne_zero_of_lt hfuel)
    obtain ⟨hbody, hbodies⟩ := List.forall_mem_cons.mp hfit
    rw [List.map_cons, List.flatten_cons, List.append_assoc] at hb
    have hlen := congrArg List.length hb
    rw [List.length_append, dataOnWire_length] at hlen
    obtain ⟨fuel', as, houts, hdrain⟩ := ih fuel
      (b := { b with recv := (processLane cfg body b.recv).2, fbuf := (bodies.map dataOnWire).flatten ++ tail }) hr
      (processLane_accepts cfg body _ ha) hbodies rfl (by simp only; omega)
    refine ⟨fuel', dataAnswers cfg body b.recv ++ as, ?_, ?_⟩
    · rw [outsOf_append, houts]
      rfl
    · rw [relayDrain_data fuel hr ha hbody hb, Relay.mk_andThen, hdrain]
      simp only [Relay.mk_andThen, List.append_assoc]
      rfl

/-- RX_DRAIN of Data messages and of something after them that ends the script and delivers nothing: the Data messages
are delivered and stay delivered (R116 (b), (c), (d)). -/
theorem relayRx_messages_stop {b' : Block} {as : List Answer} (hr : b.run = .active) (hb : b.fbuf = [])
    (ha : b.recv.accepts) (hl : ∀ m ∈ bodies, m.length + 4 < 2 ^ 32)
    (hc : capAdmits cfg ((bodies.map dataOnWire).flatten.length + tail.length) = true)
    (hstop : ∀ fuel, relayDrain cfg (fuel + 1) { b with recv := (processEach cfg bodies b.recv).2, fbuf := tail } =
      ⟨b', as, false⟩) (has : outsOf as = []) :
    outsOf (relayRx cfg ((bodies.map dataOnWire).flatten ++ tail) b).answers = (processEach cfg bodies b.recv).1 ∧
      (relayRx cfg ((bodies.map dataOnWire).flatten ++ tail) b).block = b' := by
  have hfit : ∀ m ∈ bodies, Relayable cfg m := fun m hm => by
    have hle := (List.sublist_flatten_of_mem (List.mem_map_of_mem hm)).length_le (l₁ := dataOnWire m)
    rw [dataOnWire_length] at hle
    exact ⟨hl m hm, capAdmits_mono cfg _ _ (by omega) hc⟩
  obtain ⟨fuel, ms, houts, hdrain⟩ := relayDrain_messages _
    (b := { b with fbuf := (bodies.map dataOnWire).flatten ++ tail }) hr ha hfit rfl (Nat.lt_succ_self _)
  have hc' : capAdmits cfg (b.fbuf.length + ((bodies.map dataOnWire).flatten ++ tail).length) = true := by
    rwa [hb, List.length_nil, Nat.zero_add, List.length_append]
  rw [relayRx_fits cfg _ b hr hc', Relay.mk_andThen, hb, List.nil_append, drainAll, hdrain, Relay.mk_andThen, hstop]
  refine ⟨?_, rfl⟩
  rw [outsOf_append, outsOf_append, houts, has, List.append_nil]
  rfl

end Messages

end Sys2Proof.Machine

/-! The statements about what the scripts do after commands that answered OK (44_system_and_macros.md R112 to R117). -/

namespace Sys2Proof.Machine

/-- Settles O52: PROCESS as the instruction runs it, and the rest of the script from `relayTx_tooLong`. -/
theorem txDataTooLongAdvancesTheLane : Obligations.TxDataTooLongAdvancesTheLane := by
  intro s bytes hr hl ha
  have htx := relayTx_tooLong Config.config hr ha hl
  exact ⟨_, _, exec_process_accepts hr ha bytes, rfl,
    congrArg (fun x : Relay => Host.Outcome.next (s.finish x.block x.answers)) htx⟩

/-- Settles O55: a frame that fits is relayed whole, none of it being left for later (`relayFeed_relays`); of one that
does not, the length is in the buffer once it is full (`relayRx_oversize`). -/
theorem rxDrainDeliversADataMessage : Obligations.RxDrainDeliversADataMessage := by
  intro s body hr hb hl ha
  refine ⟨_, _, _, exec_process_accepts hr ha body, rfl, processLane_length .., rfl, rfl, fun hfits => ?_,
    fun cap hcap hover => ?_⟩
  · have hfit : ∀ m ∈ [body], Relayable Config.config m :=
      List.forall_mem_singleton.mpr ⟨hl, (capAdmits_eq_true_iff _ _).mpr hfits⟩
    have hwait : Awaits [body] s.block.fbuf (dataOnWire body ++ []) := by
      rw [hb]
      exact ⟨by simp, fun _ _ _ => by simp⟩
    obtain ⟨done, left, hbodies, hdone, hleft⟩ :=
      relayFeed_relays ((dataOnWire body).length + 2) hfit hr ha hwait (by omega)
    obtain ⟨rfl, hfbuf⟩ := hleft.eq_nil
    obtain rfl : [body] = done := by rw [hbodies, List.append_nil]
    refine ⟨hdone.block.trans ?_, hdone.outs⟩
    rw [hfbuf, ← hb]
    rfl
  · have hmin := Config.config_valid.cap_ge cap hcap
    have hlen : (le32 2 ++ body).length = 4 + body.length := by rw [List.length_append, le32_length]
    have hrx := relayRx_oversize Config.config (rest := le32 2 ++ body) (len := 4 + body.length) hcap (by omega) hr hb
      (by omega) (by omega) (by rw [List.length_append, hlen, le32_length]; omega)
    rw [← hlen] at hrx
    simp only [dataOnWire, frameBytes, State.finish_block, State.finish_answers]
    rw [hrx, hlen]
    exact ⟨rfl, rfl, rfl, rfl, fun c => by cases c <;> rfl⟩

/-- Settles O58: the Data messages are delivered before the drain loop comes to the tail (`relayRx_messages_stop`), and
each of the four tails ends it. -/
theorem earlierMessagesStayDelivered : Obligations.EarlierMessagesStayDelivered := by
  rintro cfg b bodies tail _ _ _ hr hb ha hl hc rfl rfl
  have hstops {b' : Block} {as : List Answer} := relayRx_messages_stop (b' := b') (as := as) hr hb ha hl hc
  have hadmits {payload more : List Byte} (ht : tail = frameBytes payload ++ more) :
      capAdmits cfg (4 + payload.length) = true :=
    capAdmits_mono cfg _ _ (by rw [ht, frameBytes]; simp only [List.length_append, le32_length]; omega) hc
  have htag (tag : Nat) {body : List Byte} (hlen : body.length + 4 < 2 ^ 32) : (le32 tag ++ body).length < 2 ^ 32 := by
    rw [List.length_append, le32_length]
    omega
  have hrun (fbuf : List Byte) :
      Block.run { b with recv := (processEach cfg bodies b.recv).2, fbuf := fbuf } = .active := hr
  refine ⟨fun body more hlen ht => ?_, fun tag body more h1 h2 hlen ht => ?_, fun payload more hlt ht => ?_,
    fun cap len more hcap hlen hover ht => ?_⟩
  · exact hstops (fun fuel => relayDrain_message_stops cfg fuel (hrun tail) (htag 1 hlen) (hadmits ht) ht
      (relayMessage_reseed cfg (hrun more) body)) rfl
  · have hfault := hstops (fun fuel => relayDrain_message_stops cfg fuel (hrun tail) (htag _ hlen) (hadmits ht) ht
      (relayMessage_fault cfg (cmdDecode_unknown (hrun more) h1 h2 body))) rfl
    rwa [BitVec.ofNat_toNat, BitVec.setWidth_eq] at hfault
  · exact hstops (fun fuel => relayDrain_message_stops cfg fuel (hrun tail) (by omega) (hadmits ht) ht
      (relayMessage_fault cfg (cmdDecode_short (hrun more) hlt))) rfl
  · have hread : readU32 tail = some len := ht ▸ readU32_le32_append len hlen more
    exact hstops (fun fuel => relayDrain_fault cfg fuel (cmdExtractOne_oversize (hrun tail) hread
      ((capAdmits_eq_false_iff _ _).mpr ⟨cap, hcap, hover⟩))) rfl

end Sys2Proof.Machine

/-! SUPPORT. How RX_DRAIN ends (44_system_and_macros.md R114): a part of the script drained the buffer and may go on, or
it stopped at an answer that ends it (`Relay.Ended`). -/

namespace Sys2Proof.Machine

/-- The answers at which the draining stops: a fault of EXTRACT_ONE or DECODE, the CLOSE of a Reseed (R117), PROCESS on
an unseeded lane (log 10). -/
inductive StopsDrain : Answer → Prop where
  | fault (op : BitVec 8) (k : Cause) : StopsDrain ⟨op, faultResp k⟩
  | reseed : StopsDrain ⟨opClose, okResp 0#32 []⟩
  | notSeeded : StopsDrain ⟨opProcess, refusedResp .notSeeded⟩

/-- A part of RX_DRAIN that is at its end: its last answer is NOTHING, which EXTRACT_ONE gives again on the block it
leaves, and the host goes on; or its last answer stopped it. -/
inductive Relay.Ended (cfg : Cfg) : Relay → Prop where
  | drained (b : Block) (as : List Answer) (h : cmdExtractOne cfg b = (b, nothingResp)) :
      Ended cfg ⟨b, as ++ [⟨opExtractOne, nothingResp⟩], true⟩
  | stopped (b : Block) (as : List Answer) (a : Answer) (h : StopsDrain a) : Ended cfg ⟨b, as ++ [a], false⟩

section Ended

variable {cfg : Cfg} {x : Relay} {b : Block}

/-- Answers given before make no difference to how a part of the script ends. -/
theorem Relay.Ended.after (as : List Answer) (h : Relay.Ended cfg x) :
    Relay.Ended cfg ⟨x.block, as ++ x.answers, x.goesOn⟩ := by
  cases h with
  | drained b as' h => simpa using Relay.Ended.drained b (as ++ as') h
  | stopped b as' a h => simpa using Relay.Ended.stopped b (as ++ as') a h

/-- A part that is at its end, and then a part that ends from wherever the buffer is drained. -/
theorem Relay.Ended.andThen {f : Block → Relay} (h : Relay.Ended cfg x)
    (hf : ∀ b, cmdExtractOne cfg b = (b, nothingResp) → Relay.Ended cfg (f b)) : Relay.Ended cfg (x.andThen f) := by
  cases h with
  | drained b as h => exact (hf b h).after _
  | stopped b as a h => exact .stopped b as a h

/-- A message is relayed, and the block is ACTIVE still; or it stops the draining. -/
theorem relayMessage_goes_or_stops (cfg : Cfg) (payload : List Byte) (hr : b.run = .active) :
    (∃ l as, relayMessage cfg payload b = ⟨b.setLane .recv l, as, true⟩) ∨
      ∃ b' as a, StopsDrain a ∧ relayMessage cfg payload b = ⟨b', as ++ [a], false⟩ := by
  rcases cmdDecode_cases payload b with ⟨hclosed, _⟩ | ⟨_, _, e⟩ | ⟨tag, _, hread, htag, _⟩ | ⟨_, _, _, _, _, e⟩
  · rw [hr] at hclosed
    cases hclosed
  · exact .inr ⟨_, [], _, .fault .., relayMessage_fault cfg e⟩
  · obtain ⟨_, hpayload, _⟩ := readU32_eq_some payload tag hread
    rw [hpayload]
    rcases htag with rfl | rfl
    · exact .inr ⟨_, [_], _, .reseed, relayMessage_reseed cfg hr _⟩
    · by_cases ha : b.recv.accepts
      · exact .inl ⟨_, _, relayMessage_data cfg _ b hr ha⟩
      · obtain ⟨hm, hs⟩ := not_or.mp ha
        refine .inr ⟨_, [_], _, .notSeeded, relayMessage_unseeded cfg _ hr ?_ (Bool.eq_false_iff.mpr hs)⟩
        cases hm' : b.recv.mode with
        | xor => rfl
        | identity => exact absurd hm' hm
  · exact .inr ⟨_, [], _, .fault .., relayMessage_fault cfg e⟩

/-- The drain loop goes on behind a frame that EXTRACT_ONE takes out. -/
theorem relayDrain_ok (fuel : Nat) {b' : Block} {v : Word32} {out : List Byte}
    (h : cmdExtractOne cfg b = (b', okResp v out)) :
    relayDrain cfg (fuel + 1) b = (Relay.mk b' [⟨opExtractOne, okResp v out⟩] true).andThen fun b1 =>
      (relayMessage cfg out b1).andThen fun b2 => relayDrain cfg fuel b2 := by
  simp only [relayDrain, h, okResp_status, if_neg statusOk_ne_nothing]
  rfl

/-- The drain loop is not cut short: each frame takes at least four bytes out of the buffer (R94; log 15). -/
theorem relayDrain_ended (fuel : Nat) (hr : b.run = .active) (hfuel : b.fbuf.length < fuel) :
    Relay.Ended cfg (relayDrain cfg fuel b) := by
  induction fuel generalizing b with
  | zero => exact absurd hfuel (Nat.not_lt_zero _)
  | succ fuel ih =>
    rcases cmdExtractOne_cases cfg b with
      ⟨hclosed, _⟩ | ⟨_, _, e⟩ | ⟨_, _, _, _, e⟩ | ⟨_, _, _, _, _, e⟩ | ⟨len, _, _, _, hle, e⟩
    · rw [hr] at hclosed
      cases hclosed
    · rw [relayDrain_nothing cfg fuel b e]
      exact .drained b [] e
    · rw [relayDrain_fault cfg fuel e]
      exact .stopped _ [] _ (.fault ..)
    · rw [relayDrain_nothing cfg fuel b e]
      exact .drained b [] e
    · rw [relayDrain_ok fuel e, Relay.mk_andThen]
      refine Relay.Ended.after _ ?_
      rcases relayMessage_goes_or_stops cfg ((b.fbuf.drop 4).take len) (b := { b with fbuf := b.fbuf.drop (4 + len) })
        hr with ⟨l, as, e⟩ | ⟨b', as, a, ha, e⟩
      · rw [e, Relay.mk_andThen]
        exact (ih (by simpa using hr) (by simp only [Block.setLane_fbuf, List.length_drop]; omega)).after as
      · rw [e, Relay.andThen_stop _ _ rfl]
        exact .stopped b' as a ha

/-- EXTRACT_ONE answers NOTHING on an ACTIVE block alone (R125). -/
theorem active_of_extract_nothing (h : cmdExtractOne cfg b = (b, nothingResp)) : b.run = .active := by
  cases hr : b.run with
  | active => rfl
  | closed =>
    rw [cmdExtractOne, whenActive_closed _ _ hr] at h
    exact absurd (congrArg (fun r => r.2.status) h) statusRefused_ne_nothing

/-- One round of the feeding loop within the capacity: all the bytes are pushed and drained, or as many as there is
room for, and the others are left to the next round. -/
theorem relayFeed_round (fuel : Nat) (bytes : List Byte) (hr : b.run = .active)
    (hb : ∀ cap, cfg.framerCap = some cap → b.fbuf.length ≤ cap)
    (hnext : ∀ cap b', cfg.framerCap = some cap → cap < b.fbuf.length + bytes.length →
      cmdExtractOne cfg b' = (b', nothingResp) →
      Relay.Ended cfg (relayFeed cfg fuel (bytes.drop (cap - b.fbuf.length)) b')) :
    Relay.Ended cfg (relayFeed cfg (fuel + 1) bytes b) := by
  have hdrain (fbuf : List Byte) : Relay.Ended cfg (drainAll cfg { b with fbuf := fbuf }) :=
    relayDrain_ended _ hr (Nat.lt_succ_self _)
  cases hc : capAdmits cfg (b.fbuf.length + bytes.length) with
  | true =>
    rw [relayFeed_fits cfg fuel bytes b hr hc]
    exact (hdrain _).after _
  | false =>
    obtain ⟨cap, hcap, hfull⟩ := (capAdmits_eq_false_iff _ _).mp hc
    rw [relayFeed_full cfg fuel bytes b hcap hr (hb cap hcap) hfull]
    exact ((hdrain _).andThen fun b' => hnext cap b' hcap hfull).after _

/-- From a drained buffer the feeding loop is not cut short: each round finds room for a byte at least (R93; log 15). -/
theorem relayFeed_ended (hv : cfg.Valid) (fuel : Nat) (bytes : List Byte) (h : cmdExtractOne cfg b = (b, nothingResp))
    (hfuel : bytes.length < fuel) : Relay.Ended cfg (relayFeed cfg fuel bytes b) := by
  induction fuel generalizing b bytes with
  | zero => exact absurd hfuel (Nat.not_lt_zero _)
  | succ fuel ih =>
    have hroom (cap : Nat) (hcap : cfg.framerCap = some cap) : b.fbuf.length < cap :=
      (drainedBufferHasRoom cfg cap b hv hcap (by rw [h]; rfl)).2
    refine relayFeed_round fuel bytes (active_of_extract_nothing h) (fun cap hcap => (hroom cap hcap).le)
      fun cap b' hcap hfull h' => ih _ h' ?_
    have hlt := hroom cap hcap
    rw [List.length_drop]
    omega

/-- RX_DRAIN on an ACTIVE block within its capacity ends only with what ends the draining: the first round may find no
room, each later one does. -/
theorem relayRx_ended (hv : cfg.Valid) (bytes : List Byte) (hr : b.run = .active)
    (hb : ∀ cap, cfg.framerCap = some cap → b.fbuf.length ≤ cap) : Relay.Ended cfg (relayRx cfg bytes b) :=
  relayFeed_round _ bytes hr hb fun _ _ _ _ h => relayFeed_ended hv _ _ h (by rw [List.length_drop]; omega)

end Ended

/-- A buffer over its capacity, which R36 excludes, takes not even an empty PUSH, and RX_DRAIN stops at it. -/
theorem relayRx_overfull (cfg : Cfg) {b : Block} {cap : Nat} (bytes : List Byte) (hcap : cfg.framerCap = some cap)
    (hr : b.run = .active) (hover : cap < b.fbuf.length) :
    relayRx cfg bytes b = ⟨b, [⟨opPush, refusedResp .framerFull⟩, ⟨opPush, refusedResp .framerFull⟩], false⟩ := by
  have hpush (part : List Byte) : cmdPush cfg part b = refuse .framerFull b :=
    cmdPush_full cfg part b hr ((capAdmits_eq_false_iff _ _).mpr ⟨cap, hcap, by omega⟩)
  simp only [relayRx, relayFeed, hpush, refuse_snd, if_true, Relay.mk_andThen, issue_refuse_andThen]
  rfl

end Sys2Proof.Machine

/-! The statement about the end of RX_DRAIN (44_system_and_macros.md R114). -/

namespace Sys2Proof.Machine

/-- Settles O59: on a CLOSED block and on a buffer over its capacity the script stops at PUSH; everywhere else it ends
as `relayRx_ended` says. -/
theorem rxDrainEndsOnlyWhenDrained : Obligations.RxDrainEndsOnlyWhenDrained := by
  intro cfg bytes b hv
  cases hr : b.run with
  | closed =>
    rw [relayRx_closed cfg hr]
    exact ⟨_, rfl, .inr (.inr (.inl rfl)), fun _ _ => .inl ⟨rfl, rfl, rfl⟩⟩
  | active =>
    by_cases hb : ∀ cap, cfg.framerCap = some cap → b.fbuf.length ≤ cap
    · have hended := relayRx_ended hv bytes hr hb
      generalize relayRx cfg bytes b = x at hended
      cases hended with
      | drained b' as h =>
        exact ⟨_, List.getLast?_concat .., .inl ⟨rfl, rfl, h⟩, fun _ hs => absurd hs (by decide)⟩
      | stopped b' as a ha =>
        refine ⟨a, List.getLast?_concat .., ?_⟩
        cases ha with
        | fault op k => exact ⟨.inr (.inl rfl), fun _ hs => absurd hs statusRefused_ne_fault.symm⟩
        | reseed => exact ⟨.inr (.inr (.inr ⟨rfl, rfl⟩)), fun _ hs => absurd hs statusRefused_ne_ok.symm⟩
        | notSeeded => exact ⟨.inr (.inr (.inl rfl)), fun _ _ => .inr ⟨rfl, rfl⟩⟩
    · have hover : capAdmits cfg b.fbuf.length = false :=
        Bool.eq_false_iff.mpr fun hc => hb ((capAdmits_eq_true_iff _ _).mp hc)
      obtain ⟨cap, hcap, hlt⟩ := (capAdmits_eq_false_iff _ _).mp hover
      rw [relayRx_overfull cfg bytes hcap hr hlt]
      exact ⟨_, rfl, .inr (.inr (.inl rfl)), fun hle => absurd hle hb⟩

end Sys2Proof.Machine

/-! SUPPORT. ENCODE and DECODE on an ACTIVE block (43_codec.md R101 to R105), one lemma for each outcome not yet said,
what an OK answer of DECODE says of the message, and each of the two as an instruction. -/

namespace Sys2Proof.Machine

section Codec

variable {b : Block} {tag : Word32}

/-- ENCODE of either tag (R101). -/
theorem cmdEncode_tagged (hr : b.run = .active) (ht : tag = 1#32 ∨ tag = 2#32) (body : List Byte) :
    cmdEncode tag body b = (b, okResp 0#32 (le32 tag.toNat ++ body)) := by
  rw [cmdEncode, whenActive_active _ _ hr]
  rcases ht with rfl | rfl <;> rfl

/-- ENCODE of any other tag (R102). -/
theorem cmdEncode_badOperand (hr : b.run = .active) (ht : ¬(tag = 1#32 ∨ tag = 2#32)) (body : List Byte) :
    cmdEncode tag body b = refuse .badOperand b := by
  rw [cmdEncode, whenActive_active _ _ hr, (tagOperand_eq_none_iff tag).mpr (not_or.mp ht)]

/-- DECODE of either tag gives back the tag and what follows it (R103). -/
theorem cmdDecode_tagged (hr : b.run = .active) (ht : tag = 1#32 ∨ tag = 2#32) (body : List Byte) :
    cmdDecode (le32 tag.toNat ++ body) b = (b, okResp tag body) := by
  rw [cmdDecode, whenActive_active _ _ hr, readU32_le32_append _ tag.isLt]
  rcases ht with rfl | rfl <;> rfl

/-- DECODE answers OK only to a message that is one of the two tags followed by the body it returns (R103). -/
theorem eq_of_cmdDecode_ok {msg body : List Byte} (h : (cmdDecode msg b).2 = okResp tag body) :
    (tag = 1#32 ∨ tag = 2#32) ∧ msg = le32 tag.toNat ++ body := by
  have hstatus := congrArg Resp.status h
  rcases cmdDecode_cases msg b with
    ⟨_, e⟩ | ⟨_, _, e⟩ | ⟨n, _, hread, hn, e⟩ | ⟨_, _, _, _, _, e⟩ <;> rw [e] at h hstatus
  case inr.inr.inl =>
    obtain rfl : BitVec.ofNat 32 n = tag := congrArg Resp.info h
    obtain rfl : msg.drop 4 = body := congrArg Resp.out h
    obtain ⟨_, hmsg, _⟩ := readU32_eq_some msg n hread
    rcases hn with rfl | rfl
    · exact ⟨.inl rfl, hmsg⟩
    · exact ⟨.inr rfl, hmsg⟩
  case inl => exact absurd hstatus statusRefused_ne_ok
  all_goals exact absurd hstatus statusFault_ne_ok

end Codec

section Exec

variable {s t : State} {r : Block × Resp}

theorem exec_encode_of {tag : Word32} {body : List Byte} (h : cmdEncode tag body s.block = r) :
    exec (.encode tag body) s = .next (s.commit opEncode r) := by rw [← h]; rfl

theorem exec_decode_of {msg : List Byte} (h : cmdDecode msg s.block = r) :
    exec (.decode msg) s = .next (s.commit opDecode r) := by rw [← h]; rfl

/-- The one answer of a command that came to a state is the command's response. -/
theorem State.commit_resp_of_next {op op' : BitVec 8} {a : Resp}
    (hnext : (.next (s.commit op r) : Host.Outcome State Fault Refusal) = .next t) (ha : t.answers = [⟨op', a⟩]) :
    r.2 = a := by
  obtain rfl := Host.Outcome.next.inj hnext
  exact congrArg Answer.resp (List.singleton_inj.mp ha)

/-- A Reseed message is what DECODE makes of its bytes (log 6). -/
theorem exec_msgReseed_eq_decode (body : List Byte) :
    exec (.msgReseed body) s = exec (.decode (le32 (1#32).toNat ++ body)) s := rfl

/-- A Data message likewise (log 6). -/
theorem exec_msgData_eq_decode (body : List Byte) :
    exec (.msgData body) s = exec (.decode (le32 (2#32).toNat ++ body)) s := rfl

/-- A message of any tag likewise (log 6). -/
theorem exec_msgUnrecognised_eq_decode (tag : Word32) (body : List Byte) :
    exec (.msgUnrecognised tag body) s = exec (.decode (le32 tag.toNat ++ body)) s := rfl

end Exec

end Sys2Proof.Machine

/-! The statements about the message codec (43_codec.md). -/

namespace Sys2Proof.Machine

/-- Settles O47, by the run state and by the tag. -/
theorem encodeTagsTheBody : Obligations.EncodeTagsTheBody := by
  intro s tag body
  refine ⟨fun hr => ?_, fun hr ht => ?_, fun hr ht => ?_⟩
  · exact exec_encode_of (whenActive_closed _ _ hr)
  · exact exec_encode_of (cmdEncode_tagged hr ht body)
  · exact exec_encode_of (cmdEncode_badOperand hr ht body)

/-- Settles O48, by the run state, the length of the message and its tag. -/
theorem decodeDispatchesOnTheTag : Obligations.DecodeDispatchesOnTheTag := by
  intro s
  refine ⟨fun hr msg => ?_, fun hr tag body ht => ?_, fun hr tag body ht => ?_, fun hr msg hlt => ?_⟩
  · exact exec_decode_of (whenActive_closed _ _ hr)
  · exact exec_decode_of (cmdDecode_tagged hr ht body)
  · obtain ⟨h1, h2⟩ := not_or.mp ht
    have hdecode := cmdDecode_unknown hr h1 h2 body
    rw [raiseFault, BitVec.ofNat_toNat, BitVec.setWidth_eq] at hdecode
    exact exec_decode_of hdecode
  · exact exec_decode_of (cmdDecode_short hr hlt)

/-- Settles O49: each row is DECODE of its bytes, and O48 says what that does. -/
theorem messageRowsAreDecoded : Obligations.MessageRowsAreDecoded := by
  intro s body
  obtain ⟨hclosed, htagged, hunknown, _⟩ := decodeDispatchesOnTheTag s
  refine ⟨fun hr => ⟨?_, ?_, fun tag h1 h2 => ?_⟩, fun hr i tag hi => ?_⟩
  · rw [exec_msgReseed_eq_decode, htagged hr _ body (.inl rfl)]
  · rw [exec_msgData_eq_decode, htagged hr _ body (.inr rfl)]
  · rw [exec_msgUnrecognised_eq_decode, hunknown hr tag body (not_or.mpr ⟨h1, h2⟩)]
  · rcases hi with rfl | rfl | rfl
    · rw [exec_msgReseed_eq_decode, hclosed hr]
    · rw [exec_msgData_eq_decode, hclosed hr]
    · rw [exec_msgUnrecognised_eq_decode, hclosed hr]

/-- Settles O50: what ENCODE returns is the tag before the body, which DECODE takes apart (O48); what DECODE accepts is
a tag before a body, which ENCODE puts together (O47). -/
theorem codecRoundTrip : Obligations.CodecRoundTrip := by
  intro s hr
  obtain ⟨_, hdecode, _⟩ := decodeDispatchesOnTheTag s
  refine ⟨fun tag body out t ht hnext ha => ?_, fun msg tag body t hnext ha => ?_⟩
  · rw [exec_encode_of (cmdEncode_tagged hr ht body)] at hnext
    obtain rfl : le32 tag.toNat ++ body = out := congrArg Resp.out (State.commit_resp_of_next hnext ha)
    exact hdecode hr tag body ht
  · rw [exec_decode_of rfl] at hnext
    obtain ⟨ht, rfl⟩ := eq_of_cmdDecode_ok (State.commit_resp_of_next hnext ha)
    obtain ⟨_, hencode, _⟩ := encodeTagsTheBody s tag body
    exact hencode hr ht

end Sys2Proof.Machine

/-! SUPPORT. CLOSE on an ACTIVE block (44_system_and_macros.md R110); the scripts TX_DATA of nothing (R113) and RX_DRAIN
of nothing (R116 (e)) and of a Reseed (R117) as runs of their commands; and these as instructions. -/

namespace Sys2Proof.Machine

/-! ## CLOSE -/

section Close

variable {b : Block} {arg : Word32} (hr : b.run = .active)
include hr

/-- CLOSE with an operand of R60 records the cause and INFO 0 (R110). -/
theorem cmdClose_accepted (ha : arg = 3#32 ∨ arg = 4#32 ∨ arg = 5#32) :
    cmdClose arg b = ({ b with run := .closed, cause := arg.setWidth 4, info := 0#32 }, okResp 0#32 []) := by
  rw [cmdClose, whenActive_active _ _ hr]
  rcases ha with rfl | rfl | rfl <;> rfl

/-- CLOSE with any other operand (R110, R124). -/
theorem cmdClose_badOperand (ha : ¬(arg = 3#32 ∨ arg = 4#32 ∨ arg = 5#32)) :
    cmdClose arg b = refuse .badOperand b := by
  obtain ⟨h3, h45⟩ := not_or.mp ha
  rw [cmdClose, whenActive_active _ _ hr, (causeOperand_eq_none_iff arg).mpr ⟨h3, not_or.mp h45⟩]

end Close

/-! ## The scripts -/

section Scripts

variable (cfg : Cfg) {b : Block} (hr : b.run = .active)
include hr

/-- A read of nothing is end of stream: the host closes the block and sends nothing (R113). -/
theorem relayTx_nil_active :
    relayTx cfg [] b =
      ⟨{ b with run := .closed, cause := 4#4, info := 0#32 }, [⟨opClose, okResp 0#32 []⟩], true⟩ := by
  rw [relayTx, cmdClose_accepted hr (.inr (.inl rfl))]
  rfl

/-- A PUSH of nothing into an empty buffer always fits and leaves nothing to extract (R116 (e)). -/
theorem relayRx_nil (hb : b.fbuf = []) :
    relayRx cfg [] b = ⟨b, [⟨opPush, okResp 0#32 []⟩, ⟨opExtractOne, nothingResp⟩], true⟩ := by
  have hfits : capAdmits cfg (b.fbuf.length + ([] : List Byte).length) = true :=
    (capAdmits_eq_true_iff _ _).mpr fun _ _ => by simp [hb]
  have hdrain := relayDrain_nothing cfg b.fbuf.length b (cmdExtractOne_short hr (by simp [hb]))
  rw [relayRx_fits cfg [] b hr hfits, Relay.mk_andThen, List.append_nil, drainAll, hdrain]
  rfl

/-- RX_DRAIN of a Reseed, and of more behind it, into an empty buffer: the Reseed is extracted, decoded and answered
with CLOSE, which ends the script before it comes to the rest (R116 (c), (d), R117). -/
theorem relayRx_reseed {body more : List Byte} (hb : b.fbuf = []) (hl : body.length + 4 < 2 ^ 32)
    (hc : capAdmits cfg ((frameBytes (le32 1 ++ body)).length + more.length) = true) :
    relayRx cfg (frameBytes (le32 1 ++ body) ++ more) b =
      ⟨{ b with fbuf := more }.closeWith .unimplementedReseed 0#32,
        [⟨opPush, okResp 0#32 []⟩,
          ⟨opExtractOne, okResp (BitVec.ofNat 32 (le32 1 ++ body).length) (le32 1 ++ body)⟩,
          ⟨opDecode, okResp 1#32 body⟩, ⟨opClose, okResp 0#32 []⟩], false⟩ := by
  have hfits : capAdmits cfg (b.fbuf.length + (frameBytes (le32 1 ++ body) ++ more).length) = true := by
    rwa [hb, List.length_nil, Nat.zero_add, List.length_append]
  have hpayload : (le32 1 ++ body).length < 2 ^ 32 := by
    rw [List.length_append, le32_length]
    omega
  have hframe : capAdmits cfg (4 + (le32 1 ++ body).length) = true :=
    capAdmits_mono cfg _ _ (by simp [frameBytes]) hc
  have hdrain := relayDrain_message_stops cfg (frameBytes (le32 1 ++ body) ++ more).length
    (b := { b with fbuf := frameBytes (le32 1 ++ body) ++ more }) hr hpayload hframe rfl
    (relayMessage_reseed cfg (b := { b with fbuf := more }) hr body)
  rw [relayRx_fits cfg _ b hr hfits, Relay.mk_andThen, hb, List.nil_append, drainAll, hdrain]
  rfl

end Scripts

/-- The bytes of a Data message on the wire: the frame's length, the tag, the body (R54, R56, R68). -/
theorem dataOnWire_eq (body : List Byte) : dataOnWire body = le32 (4 + body.length) ++ le32 2 ++ body := by
  rw [dataOnWire, frameBytes, List.length_append, le32_length, List.append_assoc]

/-! ## As instructions -/

section Exec

variable {s : State}

theorem exec_close_of {arg : Word32} {r : Block × Resp} (h : cmdClose arg s.block = r) :
    exec (.close arg) s = .next (s.commit opClose r) := by rw [← h]; rfl

theorem exec_txData_of {bytes : List Byte} {x : Relay} (h : relayTx Config.config bytes s.block = x) :
    exec (.txData bytes) s = .next (s.finish x.block x.answers) := by rw [← h]; rfl

theorem exec_rxDrain_of {bytes : List Byte} {x : Relay} (h : relayRx Config.config bytes s.block = x) :
    exec (.rxDrain bytes) s = .next (s.finish x.block x.answers) := by rw [← h]; rfl

end Exec

end Sys2Proof.Machine

/-! The statements about STATUS and CLOSE, about what TX_DATA sends, and about RX_DRAIN of nothing and of a Reseed
(44_system_and_macros.md R109, R110, R112, R113, R116, R117). -/

namespace Sys2Proof.Machine

/-- Settles O20, by the run state and by whether the operand is one of the three causes. -/
theorem closeRecordsTheHostEvent : Obligations.CloseRecordsTheHostEvent := by
  intro s arg
  refine ⟨fun hr ha => ?_, fun hr ha => ?_, fun hr => ?_⟩
  · exact exec_close_of (cmdClose_accepted hr ha)
  · exact exec_close_of (cmdClose_badOperand hr ha)
  · exact exec_close_of (whenActive_closed _ _ hr)

/-- Settles O51: PROCESS as the instruction runs it, and the rest of the script from `relayTx_sends`; what MAKE returns
is the one Data message on the wire (`dataOnWire_eq`). -/
theorem txDataSendsOneDataFrame : Obligations.TxDataSendsOneDataFrame := by
  intro s bytes hr hne hl ha
  have htx := relayTx_sends Config.config hr ha hne hl
  rw [dataOnWire_eq, processLane_length] at htx
  exact ⟨_, _, _, exec_process_accepts hr ha bytes, rfl, processLane_length .., rfl, exec_txData_of htx, rfl⟩

/-- Settles O57: `relayRx_reseed` gives the whole run, in which no command is PROCESS. -/
theorem receivedReseedIsFatal : Obligations.ReceivedReseedIsFatal := by
  intro cfg b body more _ hr hb hl hc
  rw [relayRx_reseed cfg hr hb hl hc]
  exact ⟨rfl, rfl, rfl⟩

/-- Settles O18, by evaluation: STATUS does not look at STATE. -/
theorem statusReadsWithoutWriting : Obligations.StatusReadsWithoutWriting := fun _ => rfl

/-- Settles O54: the script is the one CLOSE of `relayTx_nil_active`. -/
theorem txDataOfNothingIsEndOfStream : Obligations.TxDataOfNothingIsEndOfStream :=
  fun _ hr => exec_txData_of (relayTx_nil_active _ hr)

/-- Settles O56: the script is the two commands of `relayRx_nil`. -/
theorem rxDrainOfNothingChangesNothing : Obligations.RxDrainOfNothingChangesNothing :=
  fun _ hr hb => exec_rxDrain_of (relayRx_nil _ hr hb)

end Sys2Proof.Machine

/-! SUPPORT. Which commands a CLOSED block refuses, and under which op codes the other three are issued (60_exceptions.md
R125; 30_encoding.md R59, R65). -/

namespace Sys2Proof.Machine

/-- CLOSED is the first test of every command but RESET and STATUS; the reserved op codes are no commands (R125). -/
theorem Command.run_closed (cfg : Cfg) {k : Command} {b : Block} (hr : b.run = .closed) (hreset : k ≠ .reset)
    (hstatus : k ≠ .status) (hreserved : k ≠ .reserved) : k.run cfg b = refuse .closed b := by
  cases k with
  | reset => exact absurd rfl hreset
  | status => exact absurd rfl hstatus
  | reserved => exact absurd rfl hreserved
  | lane | push | extractOne | make | encode | decode | close => exact whenActive_closed b _ hr

/-- The op codes of the reserved rows lie outside those of the commands (R65). -/
theorem opCode_of_isReserved {i : Instr} {op : BitVec 8} (hi : isReserved i = true) (ho : opCode i = some op) :
    op.toNat = 0 ∨ 13 ≤ op.toNat := by
  have hrows : ∀ op : BitVec 8, isReserved (decodeOp op) = true → op.toNat = 0 ∨ 13 ≤ op.toNat := by decide
  exact hrows op (by rwa [decodeOp_of_opCode hi ho])

section OpCode

variable {i : Instr} {op : BitVec 8}

/-- Among the rows with an op code RESET is issued by its own alone. -/
theorem Issues.opCode_reset (hk : Issues i .reset) (ho : opCode i = some op) : op = 0x01#8 := by
  cases hk
  cases ho
  rfl

/-- Among the rows with an op code STATUS is issued by its own alone. -/
theorem Issues.opCode_status (hk : Issues i .status) (ho : opCode i = some op) : op = 0x02#8 := by
  cases hk
  cases ho
  rfl

/-- The refusal of the reserved op codes is met under these alone. -/
theorem Issues.opCode_reserved (hk : Issues i .reserved) (ho : opCode i = some op) : op.toNat = 0 ∨ 13 ≤ op.toNat := by
  cases hk with
  | reserved _ hi => exact opCode_of_isReserved hi ho

end OpCode

end Sys2Proof.Machine

/-! The statements about how a step ends: on a CLOSED block, with nothing issued, and at all (60_exceptions.md R119, R124
to R126, R130). -/

namespace Sys2Proof.Machine

/-- Settles O10: a CMD record is one command, answered under its op code; in this range it is none of the three that do
not test CLOSED. -/
theorem closedBlockRefusesCommands : Obligations.ClosedBlockRefusesCommands := by
  intro s c rest hr hp hmin hmax
  have ho := opCode_decodeCmd c
  obtain ⟨k, hk, e⟩ := exec_of_opCode ho
  have hreset : k ≠ .reset := by
    rintro rfl
    simp [hk.opCode_reset ho] at hmin
  have hstatus : k ≠ .status := by
    rintro rfl
    simp [hk.opCode_status ho] at hmin
  have hreserved : k ≠ .reserved := by
    rintro rfl
    have hop := hk.opCode_reserved ho
    omega
  rw [step_cons s _ rest hp, fetched_cmd, e, Command.run_closed Config.config hr hreset hstatus hreserved]
  rfl

/-- Settles O5. -/
theorem idleBlockHoldsItsState : Obligations.IdleBlockHoldsItsState := step_nil

/-- Settles O6: a step holds the state or runs one instruction, and every instruction answers a next state. -/
theorem everyStepCompletes : Obligations.EveryStepCompletes := by
  intro s
  cases hp : s.pending with
  | nil => exact ⟨s, step_nil s hp⟩
  | cons x rest =>
    rw [step_cons s x rest hp]
    exact exec_completes (fetched x) { s with pending := rest }

end Sys2Proof.Machine
